-- ==== Sys2Proof/Word.lean ====
section
/-!
DEFINITION. The words of the WS-88 (00 Conventions, R194, R196): the bit vectors that the manual itself treats as bits.
Depths, counts, gains and positions are numbers in the manual and are `Nat` or `Int` in the model.
-/

namespace Sys2Proof

/-- Half a byte, what LD0 to LD3 carry in one LCLK cycle (R187). -/
abbrev Nib := BitVec 4

/-- One byte of the store. -/
abbrev Byte := BitVec 8

/-- A 16-bit field: a sequence, a stamp, a journal value. -/
abbrev Half := BitVec 16

/-- A 32-bit store word, register, mark or scan count. -/
abbrev Word := BitVec 32

end Sys2Proof
end

