-- ==== Sys2Proof/Config.lean ====
section
/-!
DEFINITION. The constants of the part: the sizes that 00 and the chapters fix.
The WS-88 manual leaves no value of an operation's result open, so no free value stands here (log 7, 16 say what is open and how it is held).
-/

namespace Sys2Proof.Config

/-- Bytes of the store, 64 MiB (00, R183). -/
abbrev storeSize : Nat := 0x400_0000

/-- What a byte of the store reads as that nothing has written since power-on.
DESIGN CHOICE (log 7): R193 calls the store undefined after power-on. -/
abbrev blank : Byte := 0

/-- Keys 0 to 87 (00). -/
abbrev keys : Nat := 88

/-- Sensor channels 0 to 95 (00). -/
abbrev channels : Nat := 96

/-- Voices 0 to 79 (00). -/
abbrev voices : Nat := 80

/-- Frames of an audio block (00). -/
abbrev blockFrames : Nat := 64

/-- Capacity of a stream buffer in frames (06, 6.6). -/
abbrev bufferFrames : Nat := 256

/-- Entries of SCR's event queue (R136). -/
abbrev queueRoom : Nat := 64

/-- Entries of the prompt set (R156). -/
abbrev promptRoom : Nat := 16

/-- Highest position and due, 2^32 - 1 score frames (R135, R143). -/
abbrev positionMax : Nat := 4294967295

/-- Highest value of a 16-bit saturating count (R52, R116, R124, R184). -/
abbrev countMax : Nat := 65535

/-- Scans of a rest capture (R45). -/
abbrev restScans : Nat := 256

/-- Scans after which a bottom capture expires (R46). -/
abbrev bottomScans : Nat := 480000

end Sys2Proof.Config
end

