-- ==== Sys2Proof/Syntax.lean ====
section
/-!
DEFINITION. The commands of the WS-88: one constructor for each of the 65 rows of spec/opcode_table.json.
The part is a block: its commands are its steps, each whole and indivisible (95_what_each_step_holds.md).
An operand is what the outside brings at that step (sensor values, line levels, what the host clocks), or a choice the spec leaves between orders that "may be taken" either way (log 4).
-/

namespace Sys2Proof

/-- The raw levels of RLC's four input lines, true for high (5.1). -/
structure Lines where
  swHome : Bool
  swStop : Bool
  lever  : Bool
  svc    : Bool
  deriving DecidableEq, Repr

/-- RLC's four inputs, by name (5.1). -/
inductive RailInput where
  | swHome | swStop | lever | svc
  deriving DecidableEq, Repr

/-- The four order slots (00 Terms, 10.1). -/
inductive Slot where
  | rail | play | cal | journal
  deriving DecidableEq, Repr

/-- The orders inside one scan completion that the spec leaves open (log 4).
`viewFirst`, `statusFirst`: a 10 ms refresh of this scan takes its copy before the scan completion, and shows nothing of it (R65, R186).
`railFirst`: RLC's evaluation is taken before KSC's work (R72); `railAfterCapture`: it is taken after CAP's (R72).
`contextAt`, `railAt`: how many of the scan's live events VCE takes before the LIVE context is evaluated and before RLC's work (R36, R99, R107).
`riseOld`: the keys whose old state decides their membership at a sostenuto rise (R36).
`voiceOrder`, `guideOrder`, `journalOrder`: the order in which VCE, the guide matcher and JWR take what the scan hands them (R9, R55): each number picks, out of what is left, the one that goes next. -/
structure ScanChoice where
  viewFirst        : Bool := false
  statusFirst      : Bool := false
  railFirst        : Bool := false
  railAfterCapture : Bool := false
  contextAt        : Nat := 0
  railAt           : Nat := 0
  riseOld          : List Nat := []
  voiceOrder       : List Nat := []
  guideOrder       : List Nat := []
  journalOrder     : List Nat := []
  deriving DecidableEq, Repr

/-- What one scan brings (R1): the conversion of sensor input `i` at multiplexer position `p` is `conv[p][i]`; the levels of the rail inputs at its completion; the open orders. -/
structure Scan where
  conv   : Vector (Vector (BitVec 12) 6) 16
  lines  : Lines
  choice : ScanChoice := {}
  deriving DecidableEq, Repr

/-- The orders inside an adoption completion that the spec leaves open (log 27).
`contextsFirst`: the contexts are evaluated before VCE takes the releases of disabled keys.
`trimFirst`: VCE trims the reserve (R108) before the contexts are evaluated.
`journalOrder`: as for a scan. -/
structure AdoptionChoice where
  contextsFirst : Bool := false
  trimFirst     : Bool := false
  journalOrder  : List Nat := []
  deriving DecidableEq, Repr

/-- The commands, one for each row of spec/opcode_table.json, in the table's order. -/
inductive Instr where
  /-- SCAN_COMPLETION (R2). -/
  | scanCompletion (scan : Scan)
  /-- REST_CAPTURE_COMPLETE (R45): the scan completion at which a rest capture completes. -/
  | restCaptureComplete (scan : Scan)
  /-- BOTTOM_CAPTURE_EXPIRED (R46): the scan completion at which a bottom capture expires. -/
  | bottomCaptureExpired (scan : Scan)
  /-- SETTLE_COUNTDOWN_EXPIRY (R71): the scan completion at which the settle countdown reaches 0. -/
  | settleCountdownExpiry (scan : Scan)
  /-- RAIL_TICK (R86): a scan completion whose count is a multiple of 8. -/
  | railTick (scan : Scan)
  /-- INPUT_FILTER_CHANGE (R68): the rail tick at which an input's filtered level takes its sample. -/
  | inputFilterChange (input : RailInput) (scan : Scan)
  /-- TRAVEL_LIMIT_STALL (R83): the rail tick at which travel used reaches the travel limit. -/
  | travelLimitStall (scan : Scan)
  /-- HOLD_LIMIT_EXPIRY (R81): the rail tick at which pause time reaches the hold limit. -/
  | holdLimitExpiry (scan : Scan)
  /-- REVERSAL_DWELL_END (R77): the rail tick at which the dwell ends. -/
  | reversalDwellEnd (scan : Scan)
  /-- KEY_VIEW_REFRESH (R65). -/
  | keyViewRefresh
  /-- STATUS_REFRESH (R66). -/
  | statusRefresh
  /-- AUDIO_BLOCK (R113); `dispatchesFirst` score events are dispatched before VCE's and MXO's work of the block (R113, R146). -/
  | audioBlock (dispatchesFirst : Nat)
  /-- SCORE_READ_DONE (R137). -/
  | scoreReadDone
  /-- BURST_ARRIVES (R112). -/
  | burstArrives
  /-- JOURNAL_RECORD_WRITE_DONE (R56). -/
  | journalRecordWriteDone
  /-- WRITE_MARK_WORD_WRITTEN (R56, R62). -/
  | writeMarkWordWritten
  /-- LINK_STORE_READ (R188): LSEL falls and the host clocks the command byte 0x21, then `sent` (the address nibbles, high nibble first), then `bytes` bytes of data out of the port. -/
  | linkStoreRead (sent : List Nib) (bytes : Nat)
  /-- LINK_STORE_WRITE (R188): LSEL falls and the host clocks the command byte 0x22, then `sent` (address and data nibbles), each as soon as LRDY lets it. -/
  | linkStoreWrite (sent : List Nib)
  /-- LINK_WORD_ACCESS_DONE (R188). -/
  | linkWordAccessDone
  /-- LINK_AGED (R185). -/
  | linkAged
  /-- BANK_SET (R187): LSEL falls and the host clocks 0x41, then `sent`. -/
  | bankSet (sent : List Nib)
  /-- REG_READ (R190): LSEL falls and the host clocks 0x31, then `sent` (the register byte). -/
  | regRead (sent : List Nib)
  /-- UNKNOWN_COMMAND (R187): LSEL falls and the host clocks a command byte that is none of the five. -/
  | unknownCommand (code : Byte)
  /-- LSEL_RISE (R189); `landed` as for SOFT_RESET, for a rise that closes a CONTROL write with SOFT_RESET 1. -/
  | lselRise (landed : Nat)
  /-- AREA_WRITE (R190): a REG_WRITE transaction of AREA with this value. -/
  | areaWrite (value : Word)
  /-- REG_WRITE (R190): LSEL falls and the host clocks 0x32, then `sent` (register byte and data nibbles). -/
  | regWrite (sent : List Nib)
  /-- RUN_RISING (R191): a REG_WRITE of CONTROL with RUN 1. -/
  | runRising
  /-- RUN_CLEAR (R192): a REG_WRITE of CONTROL with RUN 0. -/
  | runClear
  /-- SOFT_RESET (R193): a REG_WRITE of CONTROL with SOFT_RESET 1 and the LSEL rise that closes it; `landed` words of a store write in progress have reached the store (log 16). -/
  | softReset (landed : Nat)
  /-- POWER_ON (R193). -/
  | powerOn
  /-- RESET_LINE (R193): RESET goes low; `landed` as for SOFT_RESET. -/
  | resetLine (landed : Nat)
  /-- RESET_END (R193): the reset ends with the rail inputs at these levels. -/
  | resetEnd (lines : Lines)
  /-- NOTICE_MASK (R177): ORD's read of the mask word completes. -/
  | noticeMask
  /-- NOTICE_ACKNOWLEDGE (R178): ORD's read of the acknowledge word completes. -/
  | noticeAcknowledge
  /-- SETTINGS_SELECTOR (R179): ORD's read of the selector word completes. -/
  | settingsSelector
  /-- PAGE_READ_DONE (R180). -/
  | pageReadDone
  /-- ADOPTION_COMPLETION (R181); `lines` are the levels of the rail inputs, which RUN rising takes (R68, R92). -/
  | adoptionCompletion (lines : Lines) (choice : AdoptionChoice)
  /-- PAGE_STATUS_WRITTEN (R181). -/
  | pageStatusWritten
  /-- ORDER_WORD_TAKEN (R174): ORD's read of this slot's order word completes; `journalOrder` as for a scan. -/
  | orderWordTaken (slot : Slot) (journalOrder : List Nat)
  /-- UNKNOWN_ORDER (R174): an order of this slot with this code and sequence. -/
  | unknownOrder (slot : Slot) (code : Byte) (seq : Half)
  /-- ANSWER_WRITTEN (R175). -/
  | answerWritten
  /-- MOVE_SILENT (R74), an order of the RAIL slot with this sequence, as are the five after it. -/
  | moveSilent (seq : Half)
  /-- MOVE_ACOUSTIC (R74). -/
  | moveAcoustic (seq : Half)
  /-- FREE (R87). -/
  | free (seq : Half)
  /-- HOLD (R88). -/
  | hold (seq : Half)
  /-- PIN (R88). -/
  | pin (seq : Half)
  /-- CLEAR_FAULT (R89). -/
  | clearFault (seq : Half)
  /-- START (R151), an order of the PLAY slot, as are the eight after it. -/
  | start (seq : Half)
  /-- STOP (R152). -/
  | stop (seq : Half)
  /-- PAUSE (R153). -/
  | pause (seq : Half)
  /-- RESUME (R154). -/
  | resume (seq : Half)
  /-- TEMPO (R155). -/
  | tempo (seq : Half) (arg : Word)
  /-- TRACKS (R155). -/
  | tracks (seq : Half) (arg : Word)
  /-- SEEK (R168). -/
  | seek (seq : Half) (arg : Word)
  /-- LOOP (R164). -/
  | loop (seq : Half) (arg : Word)
  /-- SKIP (R162). -/
  | skip (seq : Half)
  /-- CAL_REST (R44), an order of the CAL slot, as are the three after it; `journalOrder` as for a scan. -/
  | calRest (seq : Half) (journalOrder : List Nat)
  /-- CAL_BOTTOM (R44). -/
  | calBottom (seq : Half) (journalOrder : List Nat)
  /-- CAL_END (R47). -/
  | calEnd (seq : Half)
  /-- CAL_ABANDON (R49). -/
  | calAbandon (seq : Half)
  /-- CAL_TABLE_WRITTEN (R48). -/
  | calTableWritten
  /-- JOURNAL_MARK (R61), an order of the JOURNAL slot. -/
  | journalMark (seq : Half) (arg : Word)
  /-- JOURNAL_RESTART (R62), an order of the JOURNAL slot. -/
  | journalRestart (seq : Half)
  /-- READ_MARK (R59): the read of the read mark word completes. -/
  | readMark
  /-- OUTPUT_FRAME_START (R130). -/
  | outputFrameStart
  deriving DecidableEq, Repr

end Sys2Proof
end

