-- ==== Sys2Proof/WellFormed.lean ====
section
/-!
DEFINITION. Which operands a command may have: what the tables of the spec allow a sender to bring at that step.
`exec` is total and gives every command an outcome; a command that is not well formed names an event that its row cannot name.
-/

namespace Sys2Proof

/-- The five command codes of the link (R187). -/
def linkCodes : List Byte := [0x21, 0x22, 0x31, 0x32, 0x41]

/-- How many order codes a slot knows, numbered from 1 (12.2). -/
def Slot.orders : Slot → Nat
  | .rail => 6
  | .play => 9
  | .cal => 4
  | .journal => 2

/-- Whether a slot knows an order code; it never knows code 0 (R174). -/
def Slot.knows (s : Slot) (code : Byte) : Bool := 1 ≤ code.toNat && code.toNat ≤ s.orders

/-- An order list: at most as many picks as a scan can hand records, and picks within them. -/
def orderWf (l : List Nat) : Bool := l.length ≤ 200 && l.all (· < 200)

/-- The open orders of a scan name keys 0 to 87, each once, and at most 88 events. -/
def ScanChoice.wf (c : ScanChoice) : Bool :=
  c.riseOld.all (· < 88) && decide c.riseOld.Nodup && c.contextAt ≤ 88 && c.railAt ≤ 88
    && orderWf c.voiceOrder && orderWf c.guideOrder && orderWf c.journalOrder

/-- The open orders of a scan. The conversions are 12 bits wide and 16 by 6 in number by their type (R1). -/
def Scan.wf (s : Scan) : Bool := s.choice.wf

/-- Well-formed commands. -/
def Instr.wf : Instr → Bool
  | .scanCompletion s | .restCaptureComplete s | .bottomCaptureExpired s | .settleCountdownExpiry s
  | .railTick s | .inputFilterChange _ s | .travelLimitStall s | .holdLimitExpiry s
  | .reversalDwellEnd s => s.wf
  | .audioBlock n => n ≤ 64
  | .unknownCommand code => !linkCodes.contains code
  | .lselRise n | .softReset n | .resetLine n => n ≤ 2
  | .adoptionCompletion _ c => orderWf c.journalOrder
  | .orderWordTaken _ o | .calRest _ o | .calBottom _ o => orderWf o
  | .unknownOrder slot code _ => !slot.knows code
  | .keyViewRefresh | .statusRefresh | .scoreReadDone | .burstArrives | .journalRecordWriteDone
  | .writeMarkWordWritten | .linkStoreRead _ _ | .linkStoreWrite _ | .linkWordAccessDone | .linkAged
  | .bankSet _ | .regRead _ | .areaWrite _ | .regWrite _ | .runRising | .runClear
  | .powerOn | .resetEnd _ | .noticeMask | .noticeAcknowledge | .settingsSelector | .pageReadDone
  | .pageStatusWritten | .answerWritten | .moveSilent _ | .moveAcoustic _ | .free _ | .hold _
  | .pin _ | .clearFault _ | .start _ | .stop _ | .pause _ | .resume _ | .tempo _ _ | .tracks _ _
  | .seek _ _ | .loop _ _ | .skip _ | .calEnd _ | .calAbandon _ | .calTableWritten
  | .journalMark _ _ | .journalRestart _ | .readMark | .outputFrameStart => true

end Sys2Proof
end

