-- ==== Sys2Proof/Decode.lean ====
section
/-!
DEFINITION. The command a word spells by the bits of spec/opcode_table.json.
No row of this table gives bits: the part's commands are events, not words (log 38).
-/

namespace Sys2Proof

/-- No word spells a command (log 38). -/
def decodeTableWord (_nbits _w : Nat) : Option Instr := none

end Sys2Proof
end

