-- ==== Sys2Proof/Machine/State.lean ====
section
/-!
DEFINITION. The state of the WS-88: every record, register, queue, buffer, counter and mode the spec names, as plain data, and the machine right after reset.
The records keep the names and fields of the tables that declare them. Where a table gives a field that others determine (VALID of a calibration entry, frames remaining of a voice, END fetched of the reader, the lever position of the rail), the field is computed and not stored twice.
-/

namespace Sys2Proof.Machine

open Sys2Proof.Config

/-- The store, or a part of it: rising addresses, and no byte equal to what an unlisted address reads as. -/
abbrev Memory := List Host.Cell

/-- A set of keys (R33, R143): key `k` is in it when entry `k` is true. -/
abbrev KeySet := Vector Bool 88

/-- The set with no key. -/
def KeySet.none : KeySet := Vector.replicate 88 false

/-! ## Sensing -/

/-- A glitch candidate: a far reading and its confirmation count (1.3). -/
structure Candidate where
  depth : Nat
  count : Nat
  deriving DecidableEq, Repr

/-- What a key record and a pedal record share: the sensor's raw value and its glitch filter (1.4, R28). -/
structure Sensor where
  raw      : Nat
  depth    : Nat
  cand     : Option Candidate
  glitches : Nat
  noisy    : Bool
  deriving DecidableEq, Repr

/-- R7 and R28: the sensor part of a record after any reset. -/
def Sensor.reset : Sensor := ⟨0, 0, .none, 0, false⟩

/-- The eight key states (1.6). -/
inductive KeyState where
  | disabled | capture | idle | descent | sounding | rearmed | repeatDescent | returning
  deriving DecidableEq, Repr

/-- Why a key is DISABLED (1.4). -/
inductive DisabledCause where
  | none | calibration
  deriving DecidableEq, Repr

/-- A running timing: the scan it began at and the distance it covers (1.4). -/
structure Timing where
  start : Word
  span  : Nat
  deriving DecidableEq, Repr

/-- A key record (1.4). -/
structure KeyRec where
  state        : KeyState
  sensor       : Sensor
  timing       : Option Timing
  lastVelocity : Option Nat
  cause        : DisabledCause
  deriving DecidableEq, Repr

/-- R7. -/
def KeyRec.reset : KeyRec := ⟨.disabled, Sensor.reset, .none, .none, .calibration⟩

/-- The modes of a pedal record (R28). -/
inductive PedalMode where
  | active | disabled | frozen
  deriving DecidableEq, Repr

/-- The damper zones (R33). -/
inductive Zone where
  | down | half | up
  deriving DecidableEq, Repr

/-- A pedal record (R28); `wasActive` remembers, through a capture, that the pedal was ACTIVE when it started (R31). -/
structure PedalRec where
  mode      : PedalMode
  sensor    : Sensor
  lastDepth : Nat
  wasActive : Bool
  deriving DecidableEq, Repr

/-- R28. -/
def PedalRec.reset : PedalRec := ⟨.disabled, Sensor.reset, 0, false⟩

/-- A pedal context (R33). -/
structure Context where
  damper    : Nat
  zone      : Zone
  h         : Nat
  sostenuto : Nat
  engaged   : Bool
  held      : KeySet
  soft      : Nat
  deriving DecidableEq, Repr

/-- R33: a cleared context. -/
def Context.reset : Context := ⟨0, .down, 0, 0, false, KeySet.none, 0⟩

/-- One entry of the working calibration (R41). -/
structure CalEntry where
  rz         : Nat
  bt         : Nat
  unsteady   : Bool
  notPressed : Bool
  deriving DecidableEq, Repr

/-- R41. -/
def CalEntry.reset : CalEntry := ⟨0, 0, false, false⟩

/-- One channel accumulator (R43). -/
structure Accumulator where
  sum : Nat
  min : Nat
  max : Nat
  deriving DecidableEq, Repr

/-- The kinds of a capture (R43). -/
inductive CaptureKind where
  | rest | bottom
  deriving DecidableEq, Repr

/-- How a capture ended (R43). -/
inductive EndCause where
  | completed | ended | expired | abandoned
  deriving DecidableEq, Repr

/-- The capture record and the accumulators (R43). `running` is the capture state, absent for IDLE.
`endOrder` is the CAL_END answered after the capture's own answer (R47, R48); `finishing` holds from step 2 to step 6 of R48. -/
structure Capture where
  running    : Option CaptureKind
  scans      : Nat
  order      : Option Half
  endOrder   : Option Half
  finishing  : Bool
  lastKind   : Option CaptureKind
  lastEnd    : Option EndCause
  updated    : Nat
  unsteady   : Nat
  notPressed : Nat
  acc        : Vector Accumulator 96
  deriving DecidableEq, Repr

/-- R43. -/
def Capture.reset : Capture :=
  ⟨.none, 0, .none, .none, false, .none, .none, 0, 0, 0, Vector.replicate 96 ⟨0, 0, 0⟩⟩

/-! ## Journal -/

/-- The nine kinds of journal record (R54). -/
inductive RecordKind where
  | keyOn | keyOff | pedal | rail | gap | mark | runStart | guide | cal
  deriving DecidableEq, Repr

/-- A journal record (12.7). -/
structure Record where
  kind    : RecordKind
  subject : Byte
  value   : Half
  flags   : Nib
  scan    : Word
  deriving DecidableEq, Repr

/-- What JWR has taken and not yet dealt with: a record, with the JOURNAL_MARK order it answers (R56, R61), a read mark (R59), a restart (R62). -/
inductive JournalItem where
  | record (r : Record) (answer : Option Half)
  | readMark (v : Word)
  | restart (seq : Half)
  deriving DecidableEq, Repr

/-- JWR's store write under way (R53, R56, R58, R62).
`writing` and `marking` hold the record written, whether it is the GAP record of R58, the record that waits behind a GAP, and the order to answer when the mark is written. -/
inductive JournalOp where
  | idle
  | writing (r : Record) (isGap : Bool) (behind : Option (Record × Option Half)) (answer : Option Half)
  | marking (behind : Option (Record × Option Half)) (answer : Option Half)
  | restartWrite (seq : Half)
  | restartRead (seq : Half)
  | startWrite
  | startRead
  deriving DecidableEq, Repr

/-- The journal record of JWR (R52), the threshold in force (R60) and what JWR has in hand. -/
structure Journal where
  capacity  : Nat
  w         : Word
  r         : Word
  gap       : Nat
  ignored   : Nat
  threshold : Nat
  taking    : Bool
  hand      : List JournalItem
  op        : JournalOp
  deriving DecidableEq, Repr

/-- R52. The threshold in force has no stated reset value: 0 (log 9). -/
def Journal.reset : Journal := ⟨0, 0, 0, 0, 0, 0, false, [], .idle⟩

/-! ## Rail -/

/-- The eight rail states (5.2). -/
inductive RailState where
  | retracted | engaged | part | engaging | releasing | paused | reversing | stalled
  deriving DecidableEq, Repr

/-- The direction of a move (R69). -/
inductive Direction where
  | inward | outward
  deriving DecidableEq, Repr

/-- The two ends of the rail's travel (R69). -/
inductive Target where
  | silent | acoustic
  deriving DecidableEq, Repr

/-- The permission (R69). -/
inductive Permission where
  | free | held | pinned
  deriving DecidableEq, Repr

/-- The stop causes (R69). -/
inductive StopCause where
  | none | arrived | held | pauseLimit | travel | switch | drift | stopped
  deriving DecidableEq, Repr

/-- The fault causes (R69). -/
inductive FaultCause where
  | none | travel | switch
  deriving DecidableEq, Repr

/-- Where a request came from (R69). -/
inductive Source where
  | host | lever
  deriving DecidableEq, Repr

/-- The settings a move started with (R69, R75). -/
structure MoveLimits where
  travel : Nat
  hold   : Nat
  dwell  : Nat
  settle : Nat
  deriving DecidableEq, Repr

/-- A filtered input: its filtered level, true for high, and its agreement count (R68). -/
structure Filtered where
  level : Bool
  count : Nat
  deriving DecidableEq, Repr

/-- The four filtered inputs (R68). -/
structure Inputs where
  home  : Filtered
  stop  : Filtered
  lever : Filtered
  svc   : Filtered
  deriving DecidableEq, Repr

/-- R68: at RUN rising and at the end of a reset the filtered levels take the raw levels. -/
def Inputs.take (l : Lines) : Inputs := ⟨⟨l.swHome, 0⟩, ⟨l.swStop, 0⟩, ⟨l.lever, 0⟩, ⟨l.svc, 0⟩⟩

/-- The rail record (R69) with its inputs. -/
structure Rail where
  inputs : Inputs
  state  : RailState
  dir    : Option Direction
  target : Target
  travel : Nat
  pause  : Nat
  dwell  : Nat
  perm   : Permission
  stop   : StopCause
  fault  : FaultCause
  source : Source
  limits : Option MoveLimits
  settle : Nat
  quiet  : Bool
  deriving DecidableEq, Repr

/-- The switch-derived state (R68): a switch is closed when its filtered level is low. -/
def Inputs.derived (i : Inputs) : RailState :=
  match i.home.level, i.stop.level with
  | false, true  => .retracted
  | true,  false => .engaged
  | true,  true  => .part
  | false, false => .stalled

/-- R93: the rail record at the end of any reset, with the inputs at these levels. -/
def Rail.reset (l : Lines) : Rail :=
  let st := (Inputs.take l).derived
  { inputs := Inputs.take l, state := st, dir := .none,
    target := if st = .engaged then .silent else .acoustic,
    travel := 0, pause := 0, dwell := 0, perm := .held,
    stop := if st = .stalled then .switch else .none,
    fault := if st = .stalled then .switch else .none,
    source := .host, limits := .none, settle := 0, quiet := true }

/-! ## Voices, mixer and headphone link -/

/-- A stereo sample frame: left, right (6.1). -/
abbrev Frame := Half × Half

/-- A layer of the map copy (R94). -/
structure Layer where
  top    : Nat
  offset : Nat
  length : Nat
  trim   : Nat
  deriving DecidableEq, Repr

/-- The states of a voice (R97). -/
inductive VoiceState where
  | free | priming | sounding | releasing | held | fading
  deriving DecidableEq, Repr

/-- The source of a voice (R97). -/
inductive VoiceSource where
  | live | playback
  deriving DecidableEq, Repr

/-- A voice record with its stream buffer (R97, 6.6); the fill is the buffer's length and the frames remaining are computed. -/
structure Voice where
  state    : VoiceState
  source   : VoiceSource
  key      : Fin 88
  layer    : Layer
  gain     : Nat
  env      : Nat
  serial   : Word
  pos      : Nat
  buffer   : List Frame
  pending  : Bool
  relPending : Bool
  deriving DecidableEq, Repr

/-- R97: after a reset every voice is FREE; the other fields mean nothing in FREE (log 9). -/
def Voice.reset : Voice := ⟨.free, .live, 0, ⟨0, 0, 0, 0⟩, 0, 0, 0, 0, [], false, false⟩

/-- The voice statistics (R116). -/
structure VoiceStats where
  starts    : Nat
  steals    : Nat
  restrikes : Nat
  underruns : Nat
  silents   : Nat
  deriving DecidableEq, Repr

/-- A burst in flight (R110): the voice and start serial noted, the first frame and size, and the store address of the first frame. -/
structure Burst where
  voice  : Fin 80
  serial : Word
  first  : Nat
  size   : Nat
  addr   : Nat
  deriving DecidableEq, Repr

/-- The framings of the headphone link (R130). -/
inductive Framing where
  | framed | pulsed
  deriving DecidableEq, Repr

/-- The mixer record (R131). -/
structure Mixer where
  mc        : Nat
  target    : Nat
  clip      : Bool
  clipCount : Nat
  framing   : Framing
  deriving DecidableEq, Repr

/-- The headphone link (R127 to R130): the block computed at the last audio block and the one now being sent, the next frame of it, the frame under way and its framing, and HPMUTE with its level for the block computed. -/
structure Phones where
  computed : List Frame
  sending  : List Frame
  index    : Nat
  current  : Frame
  framing  : Framing
  mute     : Bool
  muteNext : Bool
  deriving DecidableEq, Repr

/-- R128, R131: after a reset the link starts with FRAMED frames of 0 and HPMUTE is asserted. -/
def Phones.reset : Phones :=
  ⟨List.replicate 64 (0, 0), List.replicate 64 (0, 0), 0, (0, 0), .framed, true, true⟩

/-! ## Score and playback -/

/-- The kinds of a score event (R135). -/
inductive EventKind where
  | note | release | pedal | mark | fin
  deriving DecidableEq, Repr

/-- An entry of the event queue (R136) with its dealt-with mark (R156). -/
structure QueueEntry where
  kind  : EventKind
  track : Fin 4
  id    : Nat
  value : Nat
  due   : Nat
  block : Nat
  index : Nat
  dealt : Bool
  deriving DecidableEq, Repr

/-- The reader states (R136). -/
inductive ReaderState where
  | idle | reading | full | waiting | done
  deriving DecidableEq, Repr

/-- What the reader knows of its current block (R136). -/
structure HeaderCopy where
  count   : Nat
  hasNext : Bool
  next    : Nat
  deriving DecidableEq, Repr

/-- A reader store read: the header, or so many events (R137). -/
inductive ReadKind where
  | header
  | events (n : Nat)
  deriving DecidableEq, Repr

/-- A reader store read presented to the arbiter, stamped with the read serial (R136, R137). -/
structure ScoreRead where
  serial : Word
  kind   : ReadKind
  block  : Nat
  index  : Nat
  deriving DecidableEq, Repr

/-- SCR: the event queue, the reader record, its store read and the first-block offset as last taken (R136, R134). -/
structure Reader where
  queue      : List QueueEntry
  state      : ReaderState
  block      : Option Nat
  header     : Option HeaderCopy
  index      : Nat
  lastDue    : Nat
  serial     : Word
  read       : Option ScoreRead
  firstBlock : Nat
  deriving DecidableEq, Repr

/-- R136. -/
def Reader.reset : Reader := ⟨[], .idle, .none, .none, 0, 0, 0, .none, 0⟩

/-- The playback states (R143). -/
inductive PlayState where
  | stopped | seeking | playing | stalled | waiting | paused | ended
  deriving DecidableEq, Repr

/-- The track modes (R143). -/
inductive TrackMode where
  | sound | guide | mute
  deriving DecidableEq, Repr

/-- Why playback last ended (R143). -/
inductive PlayEnd where
  | none | fin | region
  deriving DecidableEq, Repr

/-- The loop setting (R143). -/
structure Loop where
  startId : Nat
  endId   : Nat
  count   : Nat
  armed   : Bool
  deriving DecidableEq, Repr

/-- The loop anchor (9.4). -/
structure Anchor where
  markId    : Nat
  block     : Nat
  index     : Nat
  position  : Nat
  damper    : Nat
  soft      : Nat
  sostenuto : Nat
  deriving DecidableEq, Repr

/-- A seek in flight: the mark sought and the order owed an answer; none for a loop's own seek (R168, R171). -/
structure Seek where
  markId : Nat
  order  : Option Half
  deriving DecidableEq, Repr

/-- A prompt (R156). -/
structure Prompt where
  key : Fin 88
  due : Nat
  met : Bool
  deriving DecidableEq, Repr

/-- PBC: the playback record (R143), the seek in flight and the prompt set (R156). -/
structure Play where
  state     : PlayState
  position  : Nat
  remainder : Nat
  tempo     : Nat
  tracks    : Vector TrackMode 4
  loop      : Loop
  anchor    : Option Anchor
  held      : KeySet
  endCause  : PlayEnd
  skipped   : Nat
  seek      : Option Seek
  prompts   : List Prompt
  deriving DecidableEq, Repr

/-- R143, R156. -/
def Play.reset : Play :=
  { state := .stopped, position := 0, remainder := 0, tempo := 100, tracks := Vector.replicate 4 .sound,
    loop := ⟨0, 0, 0, false⟩, anchor := .none, held := KeySet.none, endCause := .none, skipped := 0,
    seek := .none, prompts := [] }

/-! ## Settings -/

/-- The working settings: the fields of a settings page, clamped (R180, 12.3). -/
structure Settings where
  u : Nat
  d : Nat
  p : Nat
  l : Nat
  jump : Nat
  confirm : Nat
  usoft : Nat
  sfull : Nat
  curve : Vector Nat 17
  trims : Vector Int 88
  dlo : Nat
  dhi : Nat
  sOn : Nat
  sOff : Nat
  pedalStep : Nat
  pedalJournal : Bool
  kDown : Nat
  kUp : Nat
  volume : Nat
  framing : Framing
  monitor : Bool
  reserve : Nat
  leverEnable : Bool
  settle : Nat
  travelLimit : Nat
  holdLimit : Nat
  dwellLimit : Nat
  threshold : Nat
  guideLead : Nat
  guideMin : Nat
  mapOffset : Nat
  deriving DecidableEq, Repr

/-- R182: after a reset every working setting holds the default its chapter quotes (12.3). -/
def Settings.reset : Settings :=
  { u := 120, d := 260, p := 600, l := 880, jump := 300, confirm := 2, usoft := 0, sfull := 2400,
    curve := #v[1, 9, 17, 25, 33, 41, 49, 57, 65, 73, 81, 89, 97, 105, 113, 121, 127],
    trims := Vector.replicate 88 0,
    dlo := 200, dhi := 700, sOn := 500, sOff := 350, pedalStep := 16, pedalJournal := true,
    kDown := 31130, kUp := 32768, volume := 160, framing := .framed, monitor := false, reserve := 24,
    leverEnable := true, settle := 320, travelLimit := 1200, holdLimit := 3000, dwellLimit := 60,
    threshold := 192, guideLead := 150, guideMin := 1, mapOffset := 0 }

/-! ## The order unit, the store controller and the link port -/

/-- The eight watched words (10.1, R173). -/
inductive Watched where
  | mask | acknowledge | selector | order (slot : Slot) | readMark
  deriving DecidableEq, Repr

/-- The index of a watched word among the eight trigger flags. -/
def Watched.index : Watched → Fin 8
  | .mask => 0
  | .acknowledge => 1
  | .selector => 2
  | .order .rail => 3
  | .order .play => 4
  | .order .cal => 5
  | .order .journal => 6
  | .readMark => 7

/-- The results of an answer word (10.3). -/
inductive Result where
  | completed | accepted | notFound | refusedState | refusedArgument | refusedFault | unknownOrder
  deriving DecidableEq, Repr

/-- The sixteen notices, in bit order (10.4). -/
inductive Notice where
  | journalLevel | journalGap | railArrived | railPartial | railFault | playState | playStall | guideWait
  | calDone | audioUnderrun | audioClip | pageAdopted | pageRefused | regionFault | keyFault | orderAnswered
  deriving DecidableEq, Repr

/-- The states of the page status (12.1). -/
inductive PageState where
  | none | adopting | adopted | refused
  deriving DecidableEq, Repr

/-- The reasons of a refusal (12.1). -/
inductive PageReason where
  | none | signature | marks | damper | sostenuto
  deriving DecidableEq, Repr

/-- The page status (R179 to R182). -/
structure PageStatus where
  state    : PageState
  page     : Bool
  stamp    : Half
  reason   : PageReason
  firstBad : Nat
  dropped  : Nat
  deriving DecidableEq, Repr

/-- One access of ORD's list (R172).
Those that read: a triggered watched word; word `i` of the page, and the rest of the page; entry `i` of the calibration table; word `i` of the sample map; the header, region table, mask word, selector word and journal descriptor of the start sequence; the selector word for a further adoption (R179); the score descriptor, for the reader position with this read serial (R151, R168). -/
inductive OrdAccess where
  | summary
  | answer (slot : Slot) (seq : Half) (result : Result)
  | pageStatus (value : PageStatus)
  | calEntry (channel : Nat) (value : CalEntry)
  | keyView (offset : Nat) (bytes : List Byte) (last : Bool)
  | status (offset : Nat) (bytes : List Byte) (last : Bool)
  | threshold (value : Nat)
  | trigger (word : Watched)
  | pageWord (i : Nat)
  | pageTail
  | tableEntry (i : Nat)
  | mapWord (i : Nat)
  | startHeader
  | startRegions
  | startMask
  | startSelector
  | startMarks
  | nextSelector
  | firstBlock (serial : Word)
  deriving DecidableEq, Repr

/-- How far an adoption in flight has come: reading its page, or reading the table and the map (R180). -/
inductive AdoptionPhase where
  | idle | page | tables
  deriving DecidableEq, Repr

/-- The adoption record (R179) with what the adoption in flight has read and found so far; `entry` is what it has read of the key entry of the map that is being read.
`mapRead` says that the sample map lies inside its region and is read (R96); `stale` that its table read may not be loaded (R42). -/
structure Adoption where
  phase    : AdoptionPhase
  page     : Bool
  stamp    : Half
  next     : Bool
  bytes    : List Byte
  table    : List CalEntry
  entry    : List Byte
  map      : List (List Layer)
  dropped  : Nat
  checked  : Settings
  mapRead  : Bool
  begun    : Bool
  stale    : Bool
  deriving DecidableEq, Repr

/-- R179: IDLE, with the next flag clear. -/
def Adoption.reset : Adoption :=
  ⟨.idle, false, 0, false, [], [], [], [], 0, Settings.reset, false, false, false⟩

/-- A region: its base and its length in bytes (R183). -/
structure Region where
  base : Nat
  len  : Nat
  deriving DecidableEq, Repr

/-- The region table (R183). -/
structure Regions where
  samples : Region
  score   : Region
  journal : Region
  deriving DecidableEq, Repr

/-- The region of the region fault record (R184). -/
inductive FaultRegion where
  | none | samples | score
  deriving DecidableEq, Repr

/-- The region fault record (R184). -/
structure RegionFault where
  region : FaultRegion
  offset : Nat
  count  : Nat
  deriving DecidableEq, Repr

/-- Where a start sequence stands (R191): waiting for JWR to finish the last run's records (log 11), reading the header, the region table, the mask word, waiting for an adoption in flight, reading the selector word, adopting the page. -/
inductive StartPhase where
  | none | waitJournal | header | regions | mask | waitAdoption | selector | adopting
  deriving DecidableEq, Repr

/-- The area error codes (R190). -/
inductive AreaError where
  | none | signature | region | page
  deriving DecidableEq, Repr

/-- The order unit: notices, trigger flags, page status, adoption, settings pages in force, region table, its list of accesses and the refreshes it owes (R172 to R184, R65, R66).
`viewDue`: a key view refresh called for; `statusTick`: the 10 ms status refresh called for; `statusDue`: a status refresh that waits until one can be copied, with the latest count; `statusCall`: a status refresh is called for that takes its copy, or begins to wait, at the end of the command (log 14). -/
structure OrderUnit where
  summary      : Half
  mask         : Half
  triggers     : Vector Bool 8
  list         : List OrdAccess
  pageStatus   : PageStatus
  forcePage    : Bool
  forceStamp   : Half
  adoption     : Adoption
  regions      : Regions
  regionFault  : RegionFault
  viewDue      : Option Word
  viewWriting  : Bool
  statusTick   : Option Word
  statusDue    : Option Word
  statusWriting : Bool
  statusCall   : Bool
  deriving DecidableEq, Repr

/-- R173, R176, R177, R179, R182 to R184. -/
def OrderUnit.reset : OrderUnit :=
  { summary := 0, mask := 0, triggers := Vector.replicate 8 false, list := [],
    pageStatus := ⟨.none, false, 0, .none, 0, 0⟩, forcePage := false, forceStamp := 0,
    adoption := Adoption.reset, regions := ⟨⟨0, 0⟩, ⟨0, 0⟩, ⟨0, 0⟩⟩, regionFault := ⟨.none, 0, 0⟩,
    viewDue := .none, viewWriting := false, statusTick := .none, statusDue := .none,
    statusWriting := false, statusCall := false }

/-- The five requesters of the store arbiter (R185). -/
inductive Requester where
  | sfu | ord | jwr | scr | link
  deriving DecidableEq, Repr

/-- What the link port does with the transaction that is open (R187); `resetting` is a register transaction that has written SOFT_RESET 1, which acts when LSEL rises (R190, R193). -/
inductive LinkMode where
  | closed | ignoring | register | resetting | reading | writing
  deriving DecidableEq, Repr

/-- A word of a host transaction presented to the arbiter (R188): its byte address and, for a write, its value; `dead` once LSEL has risen on it. -/
structure LinkRequest where
  addr : Nat
  data : Option Word
  dead : Bool
  deriving DecidableEq, Repr

/-- The link port (R187 to R189, R185). `addr` is the next word's address within the bank; `toWrite` what the host has not yet clocked; `toRead` the bytes it will still clock out; `out` what the port has driven on LD0 to LD3 in this transaction; `written` the words the transaction wrote. -/
structure Link where
  bank     : BitVec 2
  mode     : LinkMode
  addr     : BitVec 24
  toWrite  : List Nib
  toRead   : Nat
  out      : List Nib
  written  : List Nat
  request  : Option LinkRequest
  waited   : Nat
  aged     : Bool
  deferred : List Watched
  deriving DecidableEq, Repr

/-- R185, R187; LSEL high. -/
def Link.reset : Link := ⟨0, .closed, 0, [], 0, [], [], .none, 0, false, []⟩

/-! ## The machine -/

/-- The state of the part. `streams` is the SAMPLES region that the voices of the table are fetched from, that of the run they were started in (R118; log 45). -/
structure State where
  pending   : List Instr
  inReset   : Bool
  store     : Memory
  area      : Word
  running   : Bool
  runBit    : Bool
  stopHeld  : Bool
  start     : StartPhase
  areaError : AreaError
  lines     : Lines
  muxAddress : BitVec 4
  raw       : Vector Nat 96
  scanCount : Word
  keys      : Vector KeyRec 88
  pedals    : Vector PedalRec 3
  lastZone  : Zone
  live      : Context
  playback  : Context
  cal       : Vector CalEntry 96
  cap       : Capture
  jwr       : Journal
  rail      : Rail
  mapCopy   : Vector (List Layer) 88
  voices    : Vector Voice 80
  startCounter : Word
  stats     : VoiceStats
  fetchOrder : List (Fin 80)
  burst     : Option Burst
  streams   : Region
  mixer     : Mixer
  phones    : Phones
  scr       : Reader
  play      : Play
  settings  : Settings
  ord       : OrderUnit
  busy      : Option Requester
  link      : Link
  deriving DecidableEq, Repr

/-- Why a command could stop the machine. The manual gives every command an effect in every state it describes, so there is no such reason and the type is empty. -/
inductive Fault where
  deriving DecidableEq, Repr

/-- Why a command could have no meaning in the model. -/
inductive Refusal where
  /-- Raised by `exec` alone, in the arm of a command that has no meaning yet; safe. No arm raises it now. -/
  | notModelled (mnemonic : String)
  deriving DecidableEq, Repr

/-- The levels of the rail inputs at `State.reset`: SW_HOME and SW_STOP high by their pull-ups, LEVER at acoustic, SVC off. DESIGN CHOICE (log 8): the manual gives the board's levels no value. -/
def resetLines : Lines := ⟨true, true, false, false⟩

/-- The machine right after the power-on reset has ended (R193 and the reset rule of each block), with no command waiting. -/
def State.reset : State :=
  { pending := [], inReset := false, store := [], area := 0, running := false, runBit := false,
    stopHeld := false, start := .none, areaError := .none, lines := resetLines, muxAddress := 0,
    raw := Vector.replicate 96 0, scanCount := 0,
    keys := Vector.replicate 88 KeyRec.reset, pedals := Vector.replicate 3 PedalRec.reset,
    lastZone := .down, live := Context.reset, playback := Context.reset,
    cal := Vector.replicate 96 CalEntry.reset, cap := Capture.reset, jwr := Journal.reset,
    rail := Rail.reset resetLines, mapCopy := Vector.replicate 88 [],
    voices := Vector.replicate 80 Voice.reset, startCounter := 0, stats := ⟨0, 0, 0, 0, 0⟩,
    fetchOrder := [], burst := .none, streams := ⟨0, 0⟩, mixer := ⟨0, 0, false, 0, .framed⟩, phones := Phones.reset,
    scr := Reader.reset, play := Play.reset, settings := Settings.reset, ord := OrderUnit.reset,
    busy := .none, link := Link.reset }

end Sys2Proof.Machine
end

