-- ==== Sys2Proof/Machine/Layout.lean ====
section
/-!
DEFINITION. The layouts of 12_record_formats.md: the offsets of the work area and the code of every enumerated field (R194).
-/

namespace Sys2Proof.Machine

/-! ## Control block offsets (12.1) -/

/-- Offset of the notice summary word. -/
def offSummary : Nat := 0x008
/-- Offset of the notice mask word. -/
def offMask : Nat := 0x00C
/-- Offset of the acknowledge word. -/
def offAcknowledge : Nat := 0x010
/-- Offset of the settings selector. -/
def offSelector : Nat := 0x014
/-- Offset of the page status words. -/
def offPageStatus : Nat := 0x018
/-- Offset of the region table. -/
def offRegions : Nat := 0x060
/-- Offset of the journal capacity. -/
def offCapacity : Nat := 0x080
/-- Offset of the journal write mark. -/
def offWriteMark : Nat := 0x084
/-- Offset of the journal read mark. -/
def offReadMark : Nat := 0x088
/-- Offset of the journal threshold copy. -/
def offThreshold : Nat := 0x08C
/-- Offset of the score descriptor's first-block offset. -/
def offFirstBlock : Nat := 0x090
/-- Offset of the status block (10.1). -/
def offStatus : Nat := 0x200
/-- Offset of the calibration table (12.4). -/
def offCalTable : Nat := 0x400
/-- Offset of the key view (12.4). -/
def offKeyView : Nat := 0x700

/-- The position of a slot among its words (12.1). -/
def slotNumber : Slot → Nat
  | .rail => 0
  | .play => 1
  | .cal => 2
  | .journal => 3

/-- Offset of a slot's order word, 8 bytes (12.1). -/
def orderOffset (s : Slot) : Nat := 0x020 + 8 * slotNumber s

/-- Offset of a slot's answer word (12.1). -/
def answerOffset (s : Slot) : Nat := 0x040 + 4 * slotNumber s

/-- Offset of settings page 0 or 1 (12.3). -/
def pageOffset (page : Bool) : Nat := if page then 0x1800 else 0x1000

/-- Offset of a watched word (12.1). -/
def Watched.offset : Watched → Nat
  | .mask => offMask
  | .acknowledge => offAcknowledge
  | .selector => offSelector
  | .order s => orderOffset s
  | .readMark => offReadMark

/-- Bytes of a watched word: an order word is 8 bytes and counts as one watched word (R194). -/
def Watched.size : Watched → Nat
  | .order _ => 8
  | _ => 4

/-- The eight watched words, in the order of their offsets (10.1). -/
def Watched.all : List Watched :=
  [.mask, .acknowledge, .selector, .order .rail, .order .play, .order .cal, .order .journal, .readMark]

/-! ## Signatures (R195) -/

/-- The control block's signature, "WS88". -/
def areaSignature : Nat := 0x3838_5357
/-- A settings page's signature, "WSPG". -/
def pageSignature : Nat := 0x4750_5357
/-- The layout version of both. -/
def layoutVersion : Nat := 1

/-! ## Codes -/

/-- Result codes (12.2). -/
def Result.code : Result → Nat
  | .completed => 1
  | .accepted => 2
  | .notFound => 3
  | .refusedState => 4
  | .refusedArgument => 5
  | .refusedFault => 6
  | .unknownOrder => 7

/-- Notice bits (10.4). -/
def Notice.bit : Notice → Nat
  | .journalLevel => 0
  | .journalGap => 1
  | .railArrived => 2
  | .railPartial => 3
  | .railFault => 4
  | .playState => 5
  | .playStall => 6
  | .guideWait => 7
  | .calDone => 8
  | .audioUnderrun => 9
  | .audioClip => 10
  | .pageAdopted => 11
  | .pageRefused => 12
  | .regionFault => 13
  | .keyFault => 14
  | .orderAnswered => 15

/-- The summary with this notice's bit alone. -/
def Notice.word (n : Notice) : Half := 1#16 <<< n.bit

/-- Page status state codes (12.1). -/
def PageState.code : PageState → Nat
  | .none => 0
  | .adopting => 1
  | .adopted => 2
  | .refused => 3

/-- Page status reason codes (12.1). -/
def PageReason.code : PageReason → Nat
  | .none => 0
  | .signature => 1
  | .marks => 2
  | .damper => 3
  | .sostenuto => 4

/-- Key state codes (12.4). -/
def KeyState.code : KeyState → Nat
  | .disabled => 0
  | .capture => 1
  | .idle => 2
  | .descent => 3
  | .sounding => 4
  | .rearmed => 5
  | .repeatDescent => 6
  | .returning => 7

/-- Pedal mode codes (12.4). -/
def PedalMode.code : PedalMode → Nat
  | .active => 8
  | .disabled => 9
  | .frozen => 10

/-- Region codes of the region fault record (12.5). -/
def FaultRegion.code : FaultRegion → Nat
  | .none => 0
  | .samples => 1
  | .score => 2

/-- Rail state codes (12.7). -/
def RailState.code : RailState → Nat
  | .retracted => 0
  | .engaged => 1
  | .part => 2
  | .engaging => 3
  | .releasing => 4
  | .paused => 5
  | .reversing => 6
  | .stalled => 7

/-- Stop cause codes (12.7). -/
def StopCause.code : StopCause → Nat
  | .none => 0
  | .arrived => 1
  | .held => 2
  | .pauseLimit => 3
  | .travel => 4
  | .switch => 5
  | .drift => 6
  | .stopped => 7

/-- Direction codes (12.5). -/
def directionCode : Option Direction → Nat
  | .none => 0
  | some .inward => 1
  | some .outward => 2

/-- Target and lever position codes (12.5). -/
def Target.code : Target → Nat
  | .silent => 0
  | .acoustic => 1

/-- Permission codes (12.5). -/
def Permission.code : Permission → Nat
  | .free => 0
  | .held => 1
  | .pinned => 2

/-- Fault cause codes (12.5). -/
def FaultCause.code : FaultCause → Nat
  | .none => 0
  | .travel => 1
  | .switch => 2

/-- Source codes (12.5). -/
def Source.code : Source → Nat
  | .host => 0
  | .lever => 1

/-- Playback state codes (12.5). -/
def PlayState.code : PlayState → Nat
  | .stopped => 0
  | .seeking => 1
  | .playing => 2
  | .stalled => 3
  | .waiting => 4
  | .paused => 5
  | .ended => 6

/-- Playback end cause codes (12.5). -/
def PlayEnd.code : PlayEnd → Nat
  | .none => 0
  | .fin => 1
  | .region => 2

/-- Track mode codes (12.2). -/
def TrackMode.code : TrackMode → Nat
  | .sound => 0
  | .guide => 1
  | .mute => 2

/-- The track mode a code names (12.2). -/
def TrackMode.ofCode : Nat → Option TrackMode
  | 0 => some .sound
  | 1 => some .guide
  | 2 => some .mute
  | _ => none

/-- Capture kind codes, 0 for IDLE or NONE (12.5, 12.7). -/
def captureCode : Option CaptureKind → Nat
  | .none => 0
  | some .rest => 1
  | some .bottom => 2

/-- End cause codes of the status block, 0 for NONE (12.5). -/
def endCauseCode : Option EndCause → Nat
  | .none => 0
  | some .completed => 1
  | some .ended => 2
  | some .expired => 3
  | some .abandoned => 4

/-- End cause flags of a CAL record (12.7). -/
def EndCause.flags : EndCause → Nib
  | .completed => 0
  | .ended => 1
  | .expired => 2
  | .abandoned => 3

/-- Journal record kind codes (12.7). -/
def RecordKind.code : RecordKind → Nat
  | .keyOn => 1
  | .keyOff => 2
  | .pedal => 3
  | .rail => 4
  | .gap => 5
  | .mark => 6
  | .runStart => 7
  | .guide => 8
  | .cal => 9

/-- Area error codes (R196). -/
def AreaError.code : AreaError → Nat
  | .none => 0
  | .signature => 1
  | .region => 2
  | .page => 3

/-- Score event kinds by code (12.6). -/
def EventKind.ofCode : Nat → Option EventKind
  | 1 => some .note
  | 2 => some .release
  | 3 => some .pedal
  | 4 => some .mark
  | 5 => some .fin
  | _ => none

end Sys2Proof.Machine
end

