-- ==== Sys2Proof/Machine/Ops.lean ====
section
/-!
DEFINITION. The operations every block uses: bytes of the store, the work area, notices, ORD's list, answers, journal records, region faults, and the picking of an open order.
-/

namespace Sys2Proof.Machine

open Sys2Proof.Config

/-! ## Bytes of the store -/

/-- The store's address of a byte: 26 bits (00; log 31). -/
def storeAddr (a : Nat) : Nat := a % storeSize

/-- The byte listed at `a`, or the blank byte (log 7). -/
def cellAt : Memory → Nat → Byte
  | [], _ => blank
  | (x, v) :: m, a => if x = a then v else cellAt m a

/-- Set the byte at `a`, keeping the canonical form: rising addresses and no blank entry. -/
def setCell : Memory → Nat → Byte → Memory
  | [], a, b => if b = blank then [] else [(a, b)]
  | (x, v) :: m, a, b =>
    if a < x then (if b = blank then (x, v) :: m else (a, b) :: (x, v) :: m)
    else if a = x then (if b = blank then m else (a, b) :: m)
    else (x, v) :: setCell m a b

/-- Every entry lies at or above `n`, in rising order, inside the store, and holds no blank byte. -/
def wfFrom : Nat → Memory → Bool
  | _, [] => true
  | n, (x, v) :: m => n ≤ x && x < storeSize && v != blank && wfFrom (x + 1) m

/-- The canonical form of memory. -/
def Memory.wf (m : Memory) : Bool := wfFrom 0 m

/-- Read the byte of the store at `a`. -/
def readByte (m : Memory) (a : Nat) : Byte := cellAt m (storeAddr a)

/-- Write the byte of the store at `a`. -/
def writeByte (m : Memory) (a : Nat) (b : Byte) : Memory := setCell m (storeAddr a) b

/-- Read `n` bytes from `a` upwards. -/
def readBytes (m : Memory) (a : Nat) : Nat → List Byte
  | 0 => []
  | n + 1 => readByte m a :: readBytes m (a + 1) n

/-- Write a list of bytes from `a` upwards. -/
def writeBytes (m : Memory) (a : Nat) : List Byte → Memory
  | [] => m
  | b :: bs => writeBytes (writeByte m a b) (a + 1) bs

/-- The number that bytes give, the lowest address least significant (R194). -/
def ofBytes : List Byte → Nat
  | [] => 0
  | b :: bs => b.toNat + 256 * ofBytes bs

/-- The low `n` bytes of a number, least significant first (R194). -/
def toBytes : Nat → Nat → List Byte
  | 0, _ => []
  | n + 1, x => BitVec.ofNat 8 x :: toBytes n (x / 256)

/-- Read an unsigned field of `n` bytes. -/
def readField (m : Memory) (a n : Nat) : Nat := ofBytes (readBytes m a n)

/-- Read a store word. -/
def readWord (m : Memory) (a : Nat) : Word := BitVec.ofNat 32 (readField m a 4)

/-- Write a store word. -/
def writeWord (m : Memory) (a : Nat) (w : Word) : Memory := writeBytes m a (toBytes 4 w.toNat)

/-! ## The work area (R172: AREA_BASE plus an offset) -/

/-- Store address of a work-area offset, by AREA_BASE as it stands: an access that was queued before AREA was written takes the new value, at the moment it ends (log 61). -/
def areaAddr (s : State) (off : Nat) : Nat := s.area.toNat + off

/-- Read a work-area word. -/
def areaWord (s : State) (off : Nat) : Word := readWord s.store (areaAddr s off)

/-- Write bytes into the work area. -/
def writeArea (off : Nat) (bs : List Byte) (s : State) : State :=
  { s with store := writeBytes s.store (areaAddr s off) bs }

/-! ## Saturating counts -/

/-- A 16-bit count that saturates (00 Arithmetic). -/
def bump16 (n : Nat) : Nat := min (n + 1) countMax

/-- clamp to a..b (00 Arithmetic). -/
def clampTo (a b x : Nat) : Nat := max a (min b x)

/-! ## Notices (R176) -/

/-- Whether this is a queued write of the summary word. -/
def OrdAccess.isSummary : OrdAccess → Bool
  | .summary => true
  | _ => false

/-- Queue an access of ORD behind those it decided before (R172). -/
def pushOrd (a : OrdAccess) (s : State) : State :=
  { s with ord.list := s.ord.list ++ [a] }

/-- Queue accesses of ORD in order. -/
def pushOrds (l : List OrdAccess) (s : State) : State :=
  { s with ord.list := s.ord.list ++ l }

/-- Queue a write of the summary word, merged into one that is queued and not yet made (R176). -/
def queueSummary (s : State) : State :=
  if s.ord.list.any OrdAccess.isSummary then s else pushOrd .summary s

/-- The summary takes a value; a change of it queues a write of the summary word (R176). -/
def setSummary (v : Half) (s : State) : State :=
  if v = s.ord.summary then s else queueSummary { s with ord.summary := v }

/-- A block notices: its bit is set and stays set (R176). -/
def notice (n : Notice) (s : State) : State := setSummary (s.ord.summary ||| n.word) s

/-- Notice when the condition holds. -/
def noticeIf (c : Bool) (n : Notice) (s : State) : State := if c then notice n s else s

/-- Whether a notice's bit is set in the summary. -/
def noticed (n : Notice) (s : State) : Bool := s.ord.summary &&& n.word != 0

/-! ## Answers (R175) -/

/-- Queue the write of a slot's answer word. -/
def answer (slot : Slot) (seq : Half) (r : Result) (s : State) : State :=
  pushOrd (.answer slot seq r) s

/-- Queue the answer owed to an order, if one is owed. -/
def answerOwed (slot : Slot) (seq : Option Half) (r : Result) (s : State) : State :=
  match seq with
  | some q => answer slot q r s
  | none => s

/-! ## Journal records (R54, R55) -/

/-- JWR takes an item into its hand. -/
def handItem (i : JournalItem) (s : State) : State :=
  { s with jwr.hand := s.jwr.hand ++ [i] }

/-- A block hands JWR a record; while JWR takes none it is not taken (R52, R63). -/
def handRecord (r : Record) (s : State) : State :=
  if s.jwr.taking then handItem (.record r none) s else s

/-- Hand records in order. -/
def handRecords : List Record → State → State
  | [], s => s
  | r :: rs, s => handRecords rs (handRecord r s)

/-- KEY_ON (R54). -/
def recKeyOn (key : Fin 88) (velocity : Nat) (rep : Bool) (scan : Word) : Record :=
  ⟨.keyOn, BitVec.ofNat 8 key.val, BitVec.ofNat 16 velocity, if rep then 1 else 0, scan⟩

/-- KEY_OFF (R54). -/
def recKeyOff (key : Fin 88) (cal : Bool) (scan : Word) : Record :=
  ⟨.keyOff, BitVec.ofNat 8 key.val, 0, if cal then 1 else 0, scan⟩

/-- PEDAL (R54). -/
def recPedal (pedal : Fin 3) (depth : Nat) (scan : Word) : Record :=
  ⟨.pedal, BitVec.ofNat 8 pedal.val, BitVec.ofNat 16 depth, 0, scan⟩

/-- RAIL (R70). -/
def recRail (st : RailState) (cause : StopCause) (scan : Word) : Record :=
  ⟨.rail, BitVec.ofNat 8 st.code, BitVec.ofNat 16 cause.code, 0, scan⟩

/-- GAP (R58). -/
def recGap (lost : Nat) (scan : Word) : Record := ⟨.gap, 0, BitVec.ofNat 16 lost, 0, scan⟩

/-- MARK (R61). -/
def recMark (arg : Half) (scan : Word) : Record := ⟨.mark, 0, arg, 0, scan⟩

/-- RUN_START, which carries scan count 0 (R55). -/
def recRunStart (page : Bool) (stamp : Half) : Record :=
  ⟨.runStart, if page then 1 else 0, stamp, 0, 0⟩

/-- The outcomes of the guide matcher, as flags (12.7). -/
inductive GuideOutcome where
  | met | wrong | skipped | overflow
  deriving DecidableEq, Repr

/-- GUIDE flag codes (12.7). -/
def GuideOutcome.flags : GuideOutcome → Nib
  | .met => 0
  | .wrong => 1
  | .skipped => 2
  | .overflow => 3

/-- GUIDE (R54): the value is the signed timing error for MET, 0 otherwise. -/
def recGuide (key : Fin 88) (o : GuideOutcome) (err : Int) (scan : Word) : Record :=
  ⟨.guide, BitVec.ofNat 8 key.val, BitVec.ofInt 16 err, o.flags, scan⟩

/-- CAL (R54): byte 2 is the updated count and byte 3 the second count (12.7). -/
def recCal (kind : CaptureKind) (cause : EndCause) (updated second : Nat) (scan : Word) : Record :=
  ⟨.cal, BitVec.ofNat 8 (captureCode (some kind)), BitVec.ofNat 16 (updated + 256 * second), cause.flags, scan⟩

/-- The eight bytes of a record (12.7). -/
def Record.bytes (r : Record) : List Byte :=
  [BitVec.ofNat 8 (r.kind.code + 16 * r.flags.toNat), r.subject] ++ toBytes 2 r.value.toNat
    ++ toBytes 4 r.scan.toNat

/-! ## Region faults (R184) -/

/-- An access of an engine reaches past its region: the record takes it, and REGION_FAULT is noticed. -/
def regionFaultAt (region : FaultRegion) (off : Nat) (s : State) : State :=
  notice .regionFault
    { s with ord.regionFault := ⟨region, off, bump16 s.ord.regionFault.count⟩ }

/-! ## Open orders (log 4) -/

/-- Put a list in the order the numbers pick: each takes out of what is left the element at its place. -/
def permuteBy {α : Type} : List Nat → List α → List α
  | [], l => l
  | n :: ns, l =>
    match l[n]? with
    | some x => x :: permuteBy ns (l.eraseIdx n)
    | none => permuteBy ns l

/-- Records whose order among themselves is kept (R55): those of one block about one key or pedal, and all of RLC's and CAP's. -/
def sameOrigin (a b : JournalItem) : Bool :=
  match a, b with
  | .record x _, .record y _ => x.kind == y.kind && (x.kind == .rail || x.kind == .cal || x.subject == y.subject)
  | _, _ => false

/-- Put JWR's new items in the order the numbers pick, never one record ahead of an earlier one of the same origin (R55). -/
def permuteRecords : List Nat → List JournalItem → List JournalItem
  | [], l => l
  | n :: ns, l =>
    match l[n]? with
    | some x =>
      let i := l.findIdx (fun y => sameOrigin y x || y == x)
      match l[i]? with
      | some y => y :: permuteRecords ns (l.eraseIdx i)
      | none => permuteRecords ns l
    | none => permuteRecords ns l

/-- JWR takes what a step handed it, all that is past the first `old` items of its hand, in the order picked (R55). -/
def reorderHand (old : Nat) (order : List Nat) (s : State) : State :=
  { s with jwr.hand := s.jwr.hand.take old ++ permuteRecords order (s.jwr.hand.drop old) }

end Sys2Proof.Machine
end

