-- ==== Sys2Proof/Machine/Keys.lean ====
section
/-!
DEFINITION. Chapter 1: depth, the glitch filter, the key machine and the touch computation (KSC).
Each definition here works on one record; the scan completion that applies them to all is in Scan.lean.
-/

namespace Sys2Proof.Machine

open Sys2Proof.Config

/-! ## Depth (R3) -/

/-- R3, R41: a calibration is valid when Bt - Rz is at least 256. -/
def CalEntry.valid (c : CalEntry) : Bool := c.rz + 256 ≤ c.bt

/-- R3: the depth of a raw value under a calibration. -/
def depthOf (c : CalEntry) (r : Nat) : Nat :=
  if r ≤ c.rz then 0
  else if c.bt ≤ r then 1023
  else (r - c.rz) * 1023 / (c.bt - c.rz)

/-! ## The glitch filter (R4, R5) -/

/-- The distance of two depths. -/
def apart (a b : Nat) : Nat := (a - b) + (b - a)

/-- A sensor after one step of its filter, and whether the step noticed KEY_FAULT (R5). -/
structure Filtering where
  sensor : Sensor
  fault  : Bool
  deriving DecidableEq, Repr

/-- A reading is accepted: A takes it and a candidate is dropped uncounted. -/
def accept (d : Nat) (x : Sensor) : Sensor := { x with depth := d, cand := none }

/-- R5: the glitch counter counts a discarded candidate, saturates at 255, and at reaching 255 sets the noisy flag. -/
def countGlitch (x : Sensor) : Filtering :=
  if x.glitches < 255 then
    { sensor := { x with glitches := x.glitches + 1, noisy := x.noisy || x.glitches + 1 == 255 },
      fault := x.glitches + 1 == 255 }
  else { sensor := x, fault := false }

/-- R4 case 4: the reading becomes the candidate with count 1, which with F = 1 is accepted at once. -/
def newCandidate (f d : Nat) (x : Sensor) : Sensor :=
  if f = 1 then accept d x else { x with cand := some ⟨d, 1⟩ }

/-- R4: the four cases in order, with jump limit `j` and confirm span `f`. -/
def filterDepth (j f d : Nat) (x : Sensor) : Filtering :=
  if f = 0 then ⟨accept d x, false⟩
  else if apart d x.depth ≤ j then ⟨accept d x, false⟩
  else
    match x.cand with
    | some c =>
      if apart d c.depth ≤ j then
        if f ≤ c.count + 1 then ⟨accept d x, false⟩
        else ⟨{ x with cand := some ⟨d, c.count + 1⟩ }, false⟩
      else
        let y := countGlitch x
        ⟨newCandidate f d y.sensor, y.fault⟩
    | none => ⟨newCandidate f d x, false⟩

/-- The filter with the settings in force, on a scan's raw value. -/
def filterRaw (set : Settings) (c : CalEntry) (raw : Nat) (x : Sensor) : Filtering :=
  filterDepth set.jump set.confirm (depthOf c raw) { x with raw := raw }

/-! ## Touch (R17 to R20) -/

/-- R17: the elapsed ticks between two scan counts, modulo 2^32, at least 1 and saturating at 4095. -/
def elapsed (now start : Word) : Nat := max 1 (min 4095 (now - start).toNat)

/-- R18: the speed. -/
def speed (span n : Nat) : Nat := span * 64 / n

/-- R18: the normalised speed, 0..4096. -/
def normalise (sfull s : Nat) : Nat := min (s * 4096 / sfull) 4096

/-- Entry `i` of the touch curve. -/
def curveAt (curve : Vector Nat 17) (i : Nat) : Nat := curve[i]?.getD 0

/-- R19: the curve velocity; the interpolation rounds toward zero. -/
def curveVelocity (curve : Vector Nat 17) (q : Nat) : Int :=
  let i := q / 256
  let f := q % 256
  if i < 16 then
    (curveAt curve i : Int)
      + Int.tdiv (((curveAt curve (i + 1) : Int) - (curveAt curve i : Int)) * (f : Int)) 256
  else (curveAt curve 16 : Int)

/-- R20, R147: the soft pedal lowers a velocity; a result below 1 becomes 1. -/
def softened (v : Int) (u usoft : Nat) : Int := max 1 (v - ((u * usoft / 1023 : Nat) : Int))

/-- R20: the key trim, clamped to 1..127. -/
def trimmed (v t : Int) : Nat := (max 1 (min 127 (v + t))).toNat

/-- R18 to R20: the velocity of a NOTE_ON of a key with this span, these elapsed ticks and LIVE soft depth `u`. -/
def velocity (set : Settings) (key : Fin 88) (span n u : Nat) : Nat :=
  trimmed (softened (curveVelocity set.curve (normalise set.sfull (speed span n))) u set.usoft)
    set.trims[key]

/-! ## The key machine (R9 to R16) -/

/-- What a live key event is (R21, R22). -/
inductive KeyEventKind where
  | on (velocity : Nat) (rep : Bool)
  | off (cal : Bool)
  deriving DecidableEq, Repr

/-- A live key event (1.8). -/
structure KeyEvent where
  key  : Fin 88
  kind : KeyEventKind
  deriving DecidableEq, Repr

/-- Whether an event is a NOTE_ON. -/
def KeyEvent.isOn (e : KeyEvent) : Bool :=
  match e.kind with
  | .on _ _ => true
  | .off _ => false

/-- The journal record of a live key event (R21, R22). -/
def KeyEvent.record (scan : Word) (e : KeyEvent) : Record :=
  match e.kind with
  | .on v rep => recKeyOn e.key v rep scan
  | .off cal => recKeyOff e.key cal scan

/-- 1.6: the note-on states. -/
def KeyState.noteOn : KeyState → Bool
  | .sounding | .rearmed | .repeatDescent => true
  | .disabled | .capture | .idle | .descent | .returning => false

/-- 1.6: the timing states. -/
def KeyState.timing : KeyState → Bool
  | .descent | .repeatDescent => true
  | .disabled | .capture | .idle | .sounding | .rearmed | .returning => false

/-- A key record after a step, the live event it made, and whether KEY_FAULT was noticed for it. -/
structure KeyStep where
  key   : KeyRec
  event : Option KeyEventKind
  fault : Bool
  deriving DecidableEq, Repr

/-- IDLE if A < U, RETURN otherwise (R11, R13 to R16, R23). -/
def restState (set : Settings) (a : Nat) : KeyState := if a < set.u then .idle else .returning

/-- R10, R12, R14 to R16: the strike. -/
def strike (set : Settings) (key : Fin 88) (u span n : Nat) (rep : Bool) (r : KeyRec) : KeyStep :=
  let v := velocity set key span n u
  ⟨{ r with state := .sounding, timing := none, lastVelocity := some v }, some (.on v rep), false⟩

/-- R13 to R15: the release. -/
def letGo (set : Settings) (r : KeyRec) : KeyStep :=
  ⟨{ r with state := restState set r.sensor.depth, timing := none }, some (.off false), false⟩

/-- A move to a state with no event and no timing. -/
def moveTo (st : KeyState) (r : KeyRec) : KeyStep := ⟨{ r with state := st, timing := none }, none, false⟩

/-- The start of a timing (R10, R14, R16). -/
def startTiming (st : KeyState) (now : Word) (span : Nat) (r : KeyRec) : KeyStep :=
  ⟨{ r with state := st, timing := some ⟨now, span⟩ }, none, false⟩

/-- The span and elapsed ticks of the running timing at scan `now` (R17). -/
def timed (now : Word) (r : KeyRec) : Nat × Nat :=
  match r.timing with
  | some t => (t.span, elapsed now t.start)
  | none => (0, 1)

/-- R9, R10, R12 to R16: the checks of the key's state on the accepted depth the filter left, in order, at most one taken. -/
def evaluate (set : Settings) (now : Word) (key : Fin 88) (u : Nat) (r : KeyRec) : KeyStep :=
  let a := r.sensor.depth
  match r.state with
  | .idle =>
    if set.l ≤ a then strike set key u (set.l - set.u) 1 false r
    else if set.u ≤ a then startTiming .descent now (set.l - set.u) r
    else ⟨r, none, false⟩
  | .descent =>
    if set.l ≤ a then strike set key u (timed now r).1 (timed now r).2 false r
    else if a < set.u then moveTo .idle r
    else ⟨r, none, false⟩
  | .sounding =>
    if a < set.d then letGo set r
    else if a < set.p then moveTo .rearmed r
    else ⟨r, none, false⟩
  | .rearmed =>
    if a < set.d then letGo set r
    else if set.l ≤ a then strike set key u (set.l - set.p) 1 true r
    else if set.p ≤ a then startTiming .repeatDescent now (set.l - set.p) r
    else ⟨r, none, false⟩
  | .repeatDescent =>
    if set.l ≤ a then strike set key u (timed now r).1 (timed now r).2 true r
    else if a < set.d then letGo set r
    else if a < set.p then moveTo .rearmed r
    else ⟨r, none, false⟩
  | .returning =>
    if a < set.u then moveTo .idle r
    else if set.l ≤ a then strike set key u (set.l - set.d) 1 false r
    else if set.d ≤ a then startTiming .descent now (set.l - set.d) r
    else ⟨r, none, false⟩
  | .disabled | .capture => ⟨r, none, false⟩

/-- R11: a key is initialised from the depth of a raw value, without the filter and without an event. -/
def initialise (set : Settings) (c : CalEntry) (raw : Nat) (r : KeyRec) : KeyRec :=
  let a := depthOf c raw
  { r with state := restState set a, cause := .none, timing := none,
           sensor := { r.sensor with raw := raw, depth := a, cand := none } }

/-- R11, R25, R26: a key whose calibration is invalid is DISABLED. -/
def disable (r : KeyRec) : KeyRec :=
  { r with state := .disabled, cause := .calibration, timing := none,
           sensor := { r.sensor with depth := 0, cand := none } }

/-- What one scan completion does to one key record (R4, R9, R11, R24): `raw` is the scan's raw value, `u` the LIVE soft depth after the scan. -/
def scanKey (set : Settings) (c : CalEntry) (now : Word) (key : Fin 88) (u raw : Nat) (r : KeyRec) : KeyStep :=
  match r.state with
  | .capture => ⟨{ r with sensor.raw := raw }, none, false⟩
  | .disabled =>
    if c.valid then ⟨initialise set c raw r, none, false⟩
    else ⟨disable { r with sensor.raw := raw }, none, false⟩
  | .idle | .descent | .sounding | .rearmed | .repeatDescent | .returning =>
    let f := filterRaw set c raw r.sensor
    let k := evaluate set now key u { r with sensor := f.sensor }
    { k with fault := f.fault }

/-! ## RUN, capture and adoption (R23 to R26) -/

/-- R5: the counter and flag cleared at RUN rising and at a capture's end. -/
def Sensor.clearNoise (x : Sensor) : Sensor := { x with glitches := 0, noisy := false }

/-- R23: a key record at RUN rising. -/
def startKey (set : Settings) (c : CalEntry) (raw : Nat) : KeyRec :=
  if c.valid then
    ⟨restState set (depthOf c raw), ⟨raw, depthOf c raw, none, 0, false⟩, none, none, .none⟩
  else ⟨.disabled, ⟨raw, 0, none, 0, false⟩, none, none, .calibration⟩

/-- R24: a key when a capture starts; a key in a note-on state makes a NOTE_OFF with the CAL flag. -/
def captureKey (r : KeyRec) : KeyStep :=
  ⟨{ r with state := .capture, timing := none, sensor := { r.sensor with cand := none } },
    if r.state.noteOn then some (.off true) else none, false⟩

/-- R25: a key when a capture ends; the fault is that a key whose cause was NONE becomes DISABLED. -/
def releaseKey (set : Settings) (c : CalEntry) (r : KeyRec) : KeyStep :=
  let q := { r with sensor := r.sensor.clearNoise }
  match r.state with
  | .capture =>
    if c.valid then ⟨initialise set c r.sensor.raw q, none, false⟩
    else ⟨disable q, none, r.cause == .none⟩
  | .disabled | .idle | .descent | .sounding | .rearmed | .repeatDescent | .returning => ⟨q, none, false⟩

/-- R6, R26: a key at an adoption that completes, with its calibration before and after; a glitch candidate is dropped. -/
def adoptKey (before after : CalEntry) (r : KeyRec) : KeyStep :=
  let q := { r with sensor := { r.sensor with cand := none } }
  match r.state with
  | .capture | .disabled => ⟨q, none, false⟩
  | .idle | .descent | .sounding | .rearmed | .repeatDescent | .returning =>
    if before.valid && !after.valid then
      ⟨disable q, if r.state.noteOn then some (.off false) else none, true⟩
    else ⟨q, none, false⟩

/-- The channel of a key (R1). -/
def keyChannel (key : Fin 88) : Fin 96 := ⟨key.val, by omega⟩

/-- The keys in a note-on state (R36). -/
def liveNoteOn (keys : Vector KeyRec 88) : KeySet := Vector.ofFn fun k => keys[k].state.noteOn

/-- The events of a table of key steps, in key order. -/
def eventsOf (steps : Vector KeyStep 88) : List KeyEvent :=
  (List.finRange 88).filterMap fun k => (steps[k].event).map fun e => ⟨k, e⟩

/-- The key table a table of key steps leaves. -/
def keysOf (steps : Vector KeyStep 88) : Vector KeyRec 88 := Vector.ofFn fun k => steps[k].key

/-- Whether any step noticed KEY_FAULT. -/
def faultOf (steps : Vector KeyStep 88) : Bool := (List.finRange 88).any fun k => steps[k].fault

end Sys2Proof.Machine
end

