-- ==== Sys2Proof/Machine/Voices.lean ====
section
/-!
DEFINITION. Chapter 6: the voice table, starting, stealing and releasing voices (VCE), and the stream fetch (SFU).
-/

namespace Sys2Proof.Machine

open Sys2Proof.Config

/-! ## One voice (R97) -/

/-- R98: a voice is active in PRIMING, SOUNDING, RELEASING or HELD. -/
def VoiceState.active : VoiceState → Bool
  | .priming | .sounding | .releasing | .held => true
  | .free | .fading => false

/-- R98: the states that are mixed and consume frames. -/
def VoiceState.mixed : VoiceState → Bool
  | .sounding | .releasing | .held | .fading => true
  | .free | .priming => false

/-- R97: the frames of the recording not yet played. -/
def Voice.remaining (v : Voice) : Nat := v.layer.length - v.pos

/-- R97: the next wanted frame. -/
def Voice.nextWanted (v : Voice) : Nat := v.pos + v.buffer.length

/-- R97: the frames left to fetch. -/
def Voice.left (v : Voice) : Nat := v.layer.length - v.nextWanted

/-- A voice becomes FREE, with its buffer emptied and fetch pending cleared (R115, R121). -/
def Voice.freed (v : Voice) : Voice :=
  { v with state := .free, buffer := [], pending := false, relPending := false }

/-- R101: a voice sent to FADING; from PRIMING it becomes FREE at once. -/
def Voice.faded (v : Voice) : Voice :=
  match v.state with
  | .priming => v.freed
  | .sounding | .releasing | .held => { v with state := .fading, relPending := false }
  | .free | .fading => v

/-! ## The table -/

/-- The voice indices, lowest first. -/
def voiceIds : List (Fin 80) := List.finRange 80

/-- Replace one voice. -/
def setVoice (i : Fin 80) (v : Voice) (s : State) : State :=
  { s with voices := s.voices.set i.val v i.isLt }

/-- R109: a voice whose fetch pending is clear is not in the fetch order. -/
def pruneOrder (s : State) : State :=
  { s with fetchOrder := s.fetchOrder.filter fun i => s.voices[i].pending }

/-- Change every voice by one function, keeping the fetch order to the voices that still wait. -/
def mapVoices (f : Voice → Voice) (s : State) : State :=
  pruneOrder { s with voices := Vector.ofFn fun i => f s.voices[i] }

/-- R101: send the active voices that satisfy `p` to FADING. -/
def fadeVoices (p : Voice → Bool) (s : State) : State :=
  mapVoices (fun v => if v.state.active && p v then v.faded else v) s

/-- One voice becomes FREE. -/
def freeVoice (i : Fin 80) (s : State) : State := pruneOrder (setVoice i s.voices[i].freed s)

/-- R101, R105: the active voice of a key and source. -/
def activeVoice (src : VoiceSource) (key : Fin 88) (s : State) : Option (Fin 80) :=
  voiceIds.find? fun i =>
    s.voices[i].state.active && s.voices[i].source == src && s.voices[i].key == key

/-- R102: the playback count. -/
def playbackCount (s : State) : Nat :=
  (voiceIds.filter fun i => s.voices[i].state.active && s.voices[i].source == .playback).length

/-- R102: the playback cap. -/
def playbackCap (s : State) : Nat := 80 - s.settings.reserve

/-- The first index of a list at which `f` is least. -/
def leastBy (f : Fin 80 → Nat) : List (Fin 80) → Option (Fin 80)
  | [] => none
  | i :: is =>
    match leastBy f is with
    | none => some i
    | some j => if f j < f i then some j else some i

/-- R98: the age of a voice: the older has the larger value. -/
def voiceAge (s : State) (i : Fin 80) : Nat := (s.startCounter - s.voices[i].serial).toNat

/-- The first index of a list at which the voice is oldest. -/
def oldest (s : State) (l : List (Fin 80)) : Option (Fin 80) :=
  leastBy (fun i => 4294967295 - voiceAge s i) l

/-- The candidates in one state. -/
def inState (s : State) (st : VoiceState) (l : List (Fin 80)) : List (Fin 80) :=
  l.filter fun i => s.voices[i].state == st

/-- The quietest candidate in one state (R103, R108). -/
def quietest (s : State) (st : VoiceState) (l : List (Fin 80)) : Option (Fin 80) :=
  leastBy (fun i => s.voices[i].env) (inState s st l)

/-- R103: the victim among the candidates, by class. -/
def victim (s : State) (l : List (Fin 80)) : Option (Fin 80) :=
  quietest s .fading l <|> quietest s .releasing l <|> quietest s .held l
    <|> oldest s (inState s .sounding l) <|> oldest s (inState s .priming l)

/-! ## The stream fetch (R109 to R111) -/

/-- R109: a voice joins the fetch order. -/
def Voice.wants (v : Voice) : Bool :=
  v.state != .free && v.buffer.length ≤ 128 && 0 < v.left && !v.pending

/-- R109: every voice that meets the conditions joins. -/
def joinOrder (s : State) : State :=
  { s with fetchOrder := s.fetchOrder ++ voiceIds.filter (fun i => s.voices[i].wants),
           voices := Vector.ofFn fun i =>
             if s.voices[i].wants then { s.voices[i] with pending := true } else s.voices[i] }

/-- R110: the voice to serve next: the lowest fill, then the lowest index. -/
def burstChoice (s : State) : Option (Fin 80) :=
  leastBy (fun i => s.voices[i].buffer.length) (voiceIds.filter fun i => s.fetchOrder.contains i)

/-- R110: the burst for a voice, from the region its run began with (R118). -/
def burstFor (s : State) (i : Fin 80) : Burst :=
  let v := s.voices[i]
  { voice := i, serial := v.serial, first := v.nextWanted, size := min 64 v.left,
    addr := s.streams.base + (v.layer.offset + 4 * v.nextWanted) }

/-- R111: the burst's offset in the SAMPLES region. -/
def burstOffset (s : State) (i : Fin 80) : Nat := s.voices[i].layer.offset + 4 * s.voices[i].nextWanted

/-- R110, R111: SFU chooses a burst while none is in flight; a choice outside the region frees its voice and SFU chooses again. -/
def chooseBurst : Nat → State → State
  | 0, s => s
  | n + 1, s =>
    match s.burst, burstChoice s with
    | none, some i =>
      let b := burstFor s i
      if burstOffset s i + 4 * b.size ≤ s.streams.len then
        { s with burst := some b, fetchOrder := s.fetchOrder.filter (· != i) }
      else chooseBurst n (regionFaultAt .samples (burstOffset s i) (freeVoice i s))
    | _, _ => s

/-- R109, R110: SFU's test and choice, made at a start, after a burst has arrived and after an audio block's consumption (log 25). -/
def fetchNext (s : State) : State := chooseBurst 80 (joinOrder s)

/-! ## Starting a voice (R99 to R104) -/

/-- R99: the live gate. -/
def passesGate (src : VoiceSource) (s : State) : Bool :=
  match src with
  | .live => s.rail.state == .engaged || s.settings.monitor
  | .playback => true

/-- R100: the layer for a velocity. -/
def chooseLayer (layers : List Layer) (v : Nat) : Option Layer :=
  (layers.find? fun l => v ≤ l.top) <|> layers.getLast?

/-- R119: the gain of a voice made with velocity `v` on a layer with gain trim `t`. -/
def gainOf (v t : Nat) : Nat := min 32767 (v * v * 32767 / 16129 * t / 128)

/-- A start request that starts no voice (R100, R102). -/
def silentStart (s : State) : State := { s with stats.silents := bump16 s.stats.silents }

/-- R101: the restrike. -/
def restrike (src : VoiceSource) (key : Fin 88) (s : State) : State :=
  match activeVoice src key s with
  | some i =>
    let t := pruneOrder (setVoice i s.voices[i].faded s)
    { t with stats.restrikes := bump16 t.stats.restrikes }
  | none => s

/-- What allocation found (R102): a FREE voice, a voice to steal, or none. -/
inductive Allocation where
  | take (i : Fin 80)
  | steal (i : Fin 80)
  | nothing
  deriving DecidableEq, Repr

/-- A victim to steal, if there is one. -/
def stealFrom (v : Option (Fin 80)) : Allocation :=
  match v with
  | some i => .steal i
  | none => .nothing

/-- R102: a FREE voice with the lowest index, or a victim among the candidates. -/
def takeOrSteal (s : State) (l : List (Fin 80)) : Allocation :=
  match voiceIds.find? fun i => s.voices[i].state == .free with
  | some i => .take i
  | none => stealFrom (victim s l)

/-- R102: the allocation of a voice. -/
def allocate (src : VoiceSource) (s : State) : Allocation :=
  match src with
  | .live => takeOrSteal s voiceIds
  | .playback =>
    if playbackCount s < playbackCap s then
      takeOrSteal s (voiceIds.filter fun i => s.voices[i].source == .playback)
    else
      stealFrom (victim s
        (voiceIds.filter fun i => s.voices[i].state.active && s.voices[i].source == .playback))

/-- R104: the new voice in a record, which joins the fetch order at once; R98: its start serial. The record it replaces leaves the fetch order (R109). -/
def makeVoice (src : VoiceSource) (key : Fin 88) (v : Nat) (l : Layer) (i : Fin 80) (s : State) : State :=
  let t := setVoice i
    { state := .priming, source := src, key := key, layer := l, gain := gainOf v l.trim, env := 32767,
      serial := s.startCounter, pos := 0, buffer := [], pending := false, relPending := false } s
  fetchNext (pruneOrder { t with startCounter := s.startCounter + 1, stats.starts := bump16 s.stats.starts })

/-- R99 to R104: VCE takes a start request whole. -/
def startRequest (src : VoiceSource) (key : Fin 88) (v : Nat) (s : State) : State :=
  if passesGate src s then
    match chooseLayer s.mapCopy[key] v with
    | none => silentStart s
    | some l =>
      let t := restrike src key s
      match allocate src t with
      | .take i => makeVoice src key v l i t
      | .steal i => makeVoice src key v l i { t with stats.steals := bump16 t.stats.steals }
      | .nothing => silentStart t
  else s

/-! ## Releasing a voice (R105, R107, R149, R153) -/

/-- The sostenuto set of the context of a source (R105). -/
def heldBy (s : State) : VoiceSource → KeySet
  | .live => s.live.held
  | .playback => s.playback.held

/-- R105: what a release does to the active voice; `inSet` says that its key is in the sostenuto set. -/
def Voice.released (inSet : Bool) (v : Voice) : Voice :=
  match v.state with
  | .priming => { v with relPending := true }
  | .sounding => { v with state := if inSet then .held else .releasing }
  | .free | .releasing | .held | .fading => v

/-- R105: VCE takes a release. -/
def releaseVoice (src : VoiceSource) (key : Fin 88) (s : State) : State :=
  match activeVoice src key s with
  | some i => setVoice i (s.voices[i].released (heldBy s src)[key]) s
  | none => s

/-- R107: what a sostenuto fall does to a voice. -/
def Voice.fallen (src : VoiceSource) (noteOn : KeySet) (v : Voice) : Voice :=
  if v.state == .held && v.source == src then
    { v with state := if noteOn[v.key] then .sounding else .releasing }
  else v

/-- R107: VCE takes a sostenuto fall. -/
def sostenutoFall (src : VoiceSource) (noteOn : KeySet) (s : State) : State :=
  mapVoices (Voice.fallen src noteOn) s

/-- R149, R153: what END and PAUSE do to a playback voice. -/
def Voice.dropped (v : Voice) : Voice :=
  if v.source == .playback then
    match v.state with
    | .sounding | .held => { v with state := .releasing }
    | .priming => { v with relPending := true }
    | .free | .releasing | .fading => v
  else v

/-- R149, R153: the playback voices are released. -/
def dropPlayback (s : State) : State := mapVoices Voice.dropped s

/-- Send every active playback voice to FADING (R151, R152, R166, R168). -/
def fadePlayback (s : State) : State := fadeVoices (fun v => v.source == .playback) s

/-- Send every active voice to FADING (R117). -/
def fadeAll (s : State) : State := fadeVoices (fun _ => true) s

/-! ## The reserve at an adoption (R108) -/

/-- R108: the playback voice to trim next. -/
def trimChoice (s : State) : Option (Fin 80) :=
  let l := voiceIds.filter fun i => s.voices[i].state.active && s.voices[i].source == .playback
  quietest s .releasing l <|> quietest s .held l
    <|> oldest s (inState s .sounding l) <|> oldest s (inState s .priming l)

/-- R108: trim at most so many voices, one at a time, until the count equals the cap. -/
def trimReserve : Nat → State → State
  | 0, s => s
  | n + 1, s =>
    if playbackCap s < playbackCount s then
      match trimChoice s with
      | some i => trimReserve n (pruneOrder (setVoice i s.voices[i].faded s))
      | none => s
    else s

/-! ## The arrival of a burst (R112) -/

/-- Read `n` sample frames from `a`: left, then right, each little-endian (6.1). -/
def readFrames (m : Memory) (a : Nat) : Nat → List Frame
  | 0 => []
  | n + 1 =>
    (BitVec.ofNat 16 (readField m a 2), BitVec.ofNat 16 (readField m (a + 2) 2)) :: readFrames m (a + 4) n

/-- R112: the voice after its burst's frames arrive: those below its next wanted frame are dropped, the rest appended. -/
def Voice.arrived (first : Nat) (frames : List Frame) (v : Voice) : Voice :=
  { v with pending := false, buffer := v.buffer ++ frames.drop (v.nextWanted - first) }

/-- R112: the frames of a burst that arrives. -/
def arrive (b : Burst) (s : State) : State :=
  let v := s.voices[b.voice]
  if v.state != .free && v.serial == b.serial then
    setVoice b.voice (v.arrived b.first (readFrames s.store b.addr b.size)) { s with burst := none }
  else { s with burst := none }

/-- R112: a burst arrives, and SFU goes on. -/
def burstDone (b : Burst) (s : State) : State := fetchNext (arrive b s)

/-! ## The audio block (R106, R113 to R115, R120, R121) -/

/-- R106: a PRIMING voice whose first burst has arrived leaves PRIMING. -/
def Voice.leavePriming (inSet : Bool) (v : Voice) : Voice :=
  if v.state == .priming && 0 < v.buffer.length then
    if v.relPending then { v with state := if inSet then .held else .releasing, relPending := false }
    else { v with state := .sounding }
  else v

/-- R120: the envelope after the update, with release factor `k`. -/
def Voice.envelope (k : Nat) (v : Voice) : Nat :=
  match v.state with
  | .releasing => v.env * k / 32768
  | .fading => v.env * 16384 / 32768
  | .free | .priming | .sounding | .held => v.env

/-- R120, R121: the envelope update; below 16 the voice becomes FREE. -/
def Voice.updated (k : Nat) (v : Voice) : Voice :=
  let w := { v with env := v.envelope k }
  if v.state != .free && w.env < 16 then w.freed else w

/-- R114: the frames a mixed voice plays at one block, filled with zero frames to 64. -/
def Voice.played (v : Voice) : List Frame :=
  let f := v.buffer.take (min 64 v.remaining)
  f ++ List.replicate (64 - f.length) (0, 0)

/-- R114: whether the voice underruns at this block. -/
def Voice.underruns (v : Voice) : Bool := v.buffer.length < min 64 v.remaining

/-- R114: a voice after consuming a block. -/
def Voice.consumed (v : Voice) : Voice :=
  { v with buffer := v.buffer.drop (min 64 v.remaining), pos := v.pos + min 64 v.remaining }

/-- R115: a voice whose frames remaining are 0 becomes FREE. -/
def Voice.ended (v : Voice) : Voice :=
  if v.state != .free && v.remaining == 0 then v.freed else v

/-- R113 steps 1 and 2 for one voice: `inSet` for its key in its source's context, `k` that context's release factor. -/
def Voice.prepared (inSet : Bool) (k : Nat) (v : Voice) : Voice := (v.leavePriming inSet).updated k

/-- R113 steps 3 and 4 for one prepared voice. -/
def Voice.finished (v : Voice) : Voice :=
  (if v.state.mixed then v.consumed else v).ended

end Sys2Proof.Machine
end

