-- ==== Sys2Proof/Machine/Pedals.lean ====
section
/-!
DEFINITION. Chapter 2: the pedal records and the two pedal contexts (PDU).
-/

namespace Sys2Proof.Machine

open Sys2Proof.Config

/-- The channel of a pedal (R1). -/
def pedalChannel (p : Fin 3) : Fin 96 := ⟨88 + p.val, by omega⟩

/-- A pedal record after a step, and whether KEY_FAULT was noticed for it. -/
structure PedalStep where
  pedal : PedalRec
  fault : Bool
  deriving DecidableEq, Repr

/-- R29: what one scan completion does to a pedal record. -/
def scanPedal (set : Settings) (c : CalEntry) (raw : Nat) (r : PedalRec) : PedalStep :=
  match r.mode with
  | .active =>
    let f := filterRaw set c raw r.sensor
    ⟨{ r with sensor := f.sensor }, f.fault⟩
  | .disabled =>
    if c.valid then
      ⟨{ r with mode := .active, sensor := { r.sensor with raw := raw, depth := depthOf c raw, cand := none } }, false⟩
    else ⟨{ r with sensor := { r.sensor with raw := raw, depth := 0 } }, false⟩
  | .frozen => ⟨{ r with sensor.raw := raw }, false⟩

/-- R30: a pedal record at RUN rising. -/
def startPedal (c : CalEntry) (raw : Nat) : PedalRec :=
  if c.valid then ⟨.active, ⟨raw, depthOf c raw, none, 0, false⟩, depthOf c raw, false⟩
  else ⟨.disabled, ⟨raw, 0, none, 0, false⟩, 0, false⟩

/-- R31: a pedal record when a capture starts. -/
def freezePedal (r : PedalRec) : PedalRec :=
  { r with mode := .frozen, wasActive := r.mode == .active, sensor := { r.sensor with cand := none } }

/-- R31: a pedal record when a capture ends. -/
def thawPedal (c : CalEntry) (r : PedalRec) : PedalStep :=
  let q := { r with sensor := r.sensor.clearNoise, wasActive := false }
  match r.mode with
  | .frozen =>
    if c.valid then
      ⟨{ q with mode := .active, sensor := { q.sensor with depth := depthOf c r.sensor.raw, cand := none } }, false⟩
    else ⟨{ q with mode := .disabled, sensor := { q.sensor with depth := 0, cand := none } }, r.wasActive⟩
  | .active | .disabled => ⟨q, false⟩

/-- R6, R31: a pedal record at an adoption that completes. -/
def adoptPedal (before after : CalEntry) (r : PedalRec) : PedalStep :=
  let q := { r with sensor := { r.sensor with cand := none } }
  match r.mode with
  | .active =>
    if before.valid && !after.valid then
      ⟨{ q with mode := .disabled, sensor := { q.sensor with depth := 0 } }, true⟩
    else ⟨q, false⟩
  | .frozen | .disabled => ⟨q, false⟩

/-! ## Contexts (R33 to R38) -/

/-- R34: the damper zone of a depth. -/
def damperZone (set : Settings) (x : Nat) : Zone :=
  if x ≤ set.dlo then .down else if set.dhi ≤ x then .up else .half

/-- R34: the damper factor h of a depth. -/
def damperFactor (set : Settings) (x : Nat) : Nat :=
  if x ≤ set.dlo then 0
  else if set.dhi ≤ x then 256
  else (x - set.dlo) * 256 / (set.dhi - set.dlo)

/-- The context of a voice source (R105). -/
def contextOf (s : State) : VoiceSource → Context
  | .live => s.live
  | .playback => s.playback

/-- Replace the context of a voice source. -/
def setContext (src : VoiceSource) (c : Context) (s : State) : State :=
  match src with
  | .live => { s with live := c }
  | .playback => { s with playback := c }

/-- R34, R36, R37: a context evaluated; `noteOn` are the keys a rise takes. -/
def evaluated (set : Settings) (noteOn : KeySet) (c : Context) : Context :=
  let c := { c with zone := damperZone set c.damper, h := damperFactor set c.damper }
  if c.engaged then
    if c.sostenuto < set.sOff then { c with engaged := false, held := KeySet.none } else c
  else if set.sOn ≤ c.sostenuto then { c with engaged := true, held := noteOn }
  else c

/-- Whether the evaluation of a context is a fall (R37). -/
def falls (set : Settings) (c : Context) : Bool := c.engaged && decide (c.sostenuto < set.sOff)

/-- R33, R36, R37: a context is evaluated; a rise takes `rise`, and a fall is handed to VCE with the keys that are note-on, `fall`. -/
def evaluateContext (src : VoiceSource) (rise fall : KeySet) (s : State) : State :=
  let c := contextOf s src
  let t := setContext src (evaluated s.settings rise c) s
  if falls s.settings c then sostenutoFall src fall t else t

/-- R36: the keys note-on in a context. -/
def noteOnIn (s : State) : VoiceSource → KeySet
  | .live => liveNoteOn s.keys
  | .playback => s.play.held

/-- A context is evaluated as the records stand. -/
def evaluateNow (src : VoiceSource) (s : State) : State :=
  evaluateContext src (noteOnIn s src) (noteOnIn s src) s

/-- R40: the PLAYBACK context is reset; an engaged sostenuto hands VCE a fall. -/
def resetPlayback (s : State) : State :=
  let t := { s with playback := Context.reset }
  if s.playback.engaged then sostenutoFall .playback s.play.held t else t

/-- R33: the LIVE context takes the depths of the pedals that are not FROZEN. -/
def takeDepths (pedals : Vector PedalRec 3) (c : Context) : Context :=
  { c with
    damper := if pedals[0].mode = .frozen then c.damper else pedals[0].sensor.depth
    sostenuto := if pedals[1].mode = .frozen then c.sostenuto else pedals[1].sensor.depth
    soft := if pedals[2].mode = .frozen then c.soft else pedals[2].sensor.depth }

/-- Whether every pedal is FROZEN: the LIVE context is then left as it stands (R29). -/
def allFrozen (pedals : Vector PedalRec 3) : Bool :=
  pedals[0].mode == .frozen && pedals[1].mode == .frozen && pedals[2].mode == .frozen

/-- R40, R148: a PEDAL event sets a depth of the PLAYBACK context, which is then evaluated. -/
def playbackPedal (pedal value : Nat) (s : State) : State :=
  let c := s.playback
  let c := match pedal with
    | 0 => { c with damper := value }
    | 1 => { c with sostenuto := value }
    | _ => { c with soft := value }
  evaluateNow .playback { s with playback := c }

/-- R40, R166: the PLAYBACK context is restored from a loop anchor's snapshot, with the latch let go before the evaluation. -/
def restorePlayback (a : Anchor) (s : State) : State :=
  let c := s.playback
  let t := { s with playback := { c with damper := a.damper, sostenuto := a.sostenuto, soft := a.soft,
                                         engaged := false, held := KeySet.none } }
  evaluateNow .playback (if c.engaged then sostenutoFall .playback s.play.held t else t)

/-! ## Pedal journaling (R32) -/

/-- R32: whether a pedal qualifies; the damper also by its zone. -/
def qualifies (s : State) (p : Fin 3) : Bool :=
  let r := s.pedals[p]
  s.settings.pedalStep ≤ apart r.sensor.depth r.lastDepth
    || (p.val == 0 && s.live.zone != s.lastZone)

/-- R32: the journal decision of one pedal. -/
def decidePedal (now : Word) (s : State) (p : Fin 3) : State :=
  let r := s.pedals[p]
  if r.mode != .frozen && qualifies s p && s.settings.pedalJournal then
    handRecord (recPedal p r.sensor.depth now)
      { s with pedals := s.pedals.set p.val { r with lastDepth := r.sensor.depth } p.isLt,
               lastZone := if p.val = 0 then s.live.zone else s.lastZone }
  else s

/-- R32: the journal decisions of a scan, after the LIVE context has taken its values. -/
def decidePedals (now : Word) (s : State) : State :=
  decidePedal now (decidePedal now (decidePedal now s 0) 1) 2

/-- R32: at an adoption that turns pedal journaling on, the last journaled values take the present ones. -/
def syncJournaled (s : State) : State :=
  { s with pedals := Vector.ofFn fun p => { s.pedals[p] with lastDepth := s.pedals[p].sensor.depth },
           lastZone := s.live.zone }

end Sys2Proof.Machine
end

