-- ==== Sys2Proof/Machine/Capture.lean ====
section
/-!
DEFINITION. Chapter 3: the calibration captures (CAP).
-/

namespace Sys2Proof.Machine

open Sys2Proof.Config

/-! ## Leaving and entering (R24, R25, R31) -/

/-- NOTE_OFFs go to JWR and VCE (R22). -/
def takeOffs (events : List KeyEvent) (s : State) : State :=
  handRecords (events.map (KeyEvent.record s.scanCount))
    (events.foldl (fun t e => releaseVoice .live e.key t) s)

/-- R24: the key table when a capture starts. -/
def captureKeys (s : State) : Vector KeyStep 88 := Vector.ofFn fun k => captureKey s.keys[k]

/-- R25: the key table when a capture ends. -/
def releaseKeys (s : State) : Vector KeyStep 88 :=
  Vector.ofFn fun k => releaseKey s.settings s.cal[keyChannel k] s.keys[k]

/-- R31: the pedal records when a capture ends. -/
def thawPedals (s : State) : Vector PedalStep 3 :=
  Vector.ofFn fun p => thawPedal s.cal[pedalChannel p] s.pedals[p]

/-- The pedal table a table of pedal steps leaves. -/
def pedalsOf (steps : Vector PedalStep 3) : Vector PedalRec 3 := Vector.ofFn fun p => steps[p].pedal

/-- Whether any pedal step noticed KEY_FAULT. -/
def pedalFault (steps : Vector PedalStep 3) : Bool := (List.finRange 3).any fun p => steps[p].fault

/-- R25, R31: keys and pedals leave CAPTURE and FROZEN, and the LIVE context takes the new depths; KEY_FAULT once. -/
def leaveCapture (s : State) : State :=
  let ks := releaseKeys s
  let ps := thawPedals s
  let t := { s with keys := keysOf ks, pedals := pedalsOf ps, live := takeDepths (pedalsOf ps) s.live }
  noticeIf (faultOf ks || pedalFault ps) .keyFault (evaluateNow .live t)

/-! ## Results (R45, R46) -/

/-- R45, R46: an accumulator takes a raw value. -/
def Accumulator.add (kind : CaptureKind) (r : Nat) (a : Accumulator) : Accumulator :=
  match kind with
  | .rest => ⟨a.sum + r, Nat.min a.min r, Nat.max a.max r⟩
  | .bottom => { a with max := Nat.max a.max r }

/-- R45: a channel's entry after a rest capture. -/
def restResult (a : Accumulator) (c : CalEntry) : CalEntry :=
  if a.min + 48 < a.max then { c with unsteady := true }
  else { c with unsteady := false, rz := a.sum / 256 }

/-- R46: a channel's entry after a bottom capture. -/
def bottomResult (a : Accumulator) (c : CalEntry) : CalEntry :=
  if c.rz + 256 ≤ a.max then { c with notPressed := false, bt := a.max - 8 }
  else { c with notPressed := true }

/-- A channel's entry after a capture. -/
def captureResult (kind : CaptureKind) (a : Accumulator) (c : CalEntry) : CalEntry :=
  match kind with
  | .rest => restResult a c
  | .bottom => bottomResult a c

/-- R48 step 1: the working calibration after a capture. -/
def captureCal (kind : CaptureKind) (s : State) : Vector CalEntry 96 :=
  Vector.ofFn fun c => captureResult kind s.cap.acc[c] s.cal[c]

/-- R43: how many of channels 0 to 90 satisfy a test. -/
def countChannels (p : Fin 96 → Bool) : Nat := ((List.finRange 96).filter fun c => c.val ≤ 90 && p c).length

/-- R45, R46: the channels whose measured value changed. -/
def updatedCount (kind : CaptureKind) (before after : Vector CalEntry 96) : Nat :=
  countChannels fun c =>
    match kind with
    | .rest => before[c].rz != after[c].rz
    | .bottom => before[c].bt != after[c].bt

/-- R45, R46: the second count of a capture. -/
def secondCount (kind : CaptureKind) (after : Vector CalEntry 96) : Nat :=
  countChannels fun c =>
    match kind with
    | .rest => after[c].unsteady
    | .bottom => after[c].notPressed

/-- R48 step 2: the capture record when a capture has completed. -/
def Capture.completed (kind : CaptureKind) (cause : EndCause) (endOrder : Option Half)
    (before after : Vector CalEntry 96) (c : Capture) : Capture :=
  { c with running := none, endOrder := endOrder, finishing := true, lastKind := some kind, lastEnd := some cause,
           updated := updatedCount kind before after,
           unsteady := if kind = .rest then secondCount kind after else c.unsteady,
           notPressed := if kind = .bottom then secondCount kind after else c.notPressed }

/-- R48 step 4: the writes of the calibration table, in channel order (log 47). -/
def calWrites (cal : Vector CalEntry 96) : List OrdAccess :=
  (List.finRange 96).map fun c => .calEntry c.val cal[c]

/-- R48 steps 1 to 5; `endOrder` is the CAL_END that ended the capture. An adoption whose read of the table has begun may not load it (R42). -/
def completeCapture (kind : CaptureKind) (cause : EndCause) (endOrder : Option Half) (s : State) : State :=
  let cal := captureCal kind s
  let t := leaveCapture
    { s with cal := cal, cap := s.cap.completed kind cause endOrder s.cal cal,
             ord.adoption.stale := s.ord.adoption.stale || s.ord.adoption.begun }
  handRecord (recCal kind cause (updatedCount kind s.cal cal) (secondCount kind cal) s.scanCount)
    (pushOrds (calWrites cal) t)

/-- R48 steps 6 and 7: the last table entry is written. -/
def tableWritten (s : State) : State :=
  let t := answerOwed .cal s.cap.endOrder .completed (answerOwed .cal s.cap.order .completed s)
  notice .calDone
    { t with cap := { t.cap with order := none, endOrder := none, finishing := false } }

/-! ## At a scan completion (R45, R46) -/

/-- How many scans end a capture by themselves (R45, R46). -/
def captureLength : CaptureKind → Nat
  | .rest => restScans
  | .bottom => bottomScans

/-- The end cause of a capture that ends by its length (R45, R46). -/
def lengthCause : CaptureKind → EndCause
  | .rest => .completed
  | .bottom => .expired

/-- R45, R46: the running capture takes a scan. -/
def countScan (kind : CaptureKind) (s : State) : State :=
  { s with cap := { s.cap with
      scans := s.cap.scans + 1,
      acc := Vector.ofFn fun c => (s.cap.acc[c]).add kind s.raw[c] } }

/-- CAP's work at a scan completion. -/
def captureScan (s : State) : State :=
  match s.cap.running with
  | none => s
  | some kind =>
    let t := countScan kind s
    if captureLength kind ≤ t.cap.scans then completeCapture kind (lengthCause kind) none t else t

/-! ## Orders (R44, R47, R49, R50) -/

/-- R44: the record of a capture that starts. -/
def Capture.begun (kind : CaptureKind) (seq : Half) (c : Capture) : Capture :=
  { c with running := some kind, scans := 0, order := some seq,
           acc := Vector.replicate 96 ⟨0, 4095, 0⟩ }

/-- R44: a capture starts. -/
def beginCapture (kind : CaptureKind) (seq : Half) (order : List Nat) (s : State) : State :=
  let ks := captureKeys s
  reorderHand s.jwr.hand.length order
    (takeOffs (eventsOf ks)
      { s with cap := s.cap.begun kind seq, keys := keysOf ks,
               pedals := Vector.ofFn fun p => freezePedal s.pedals[p] })

/-- R44: CAL_REST and CAL_BOTTOM. -/
def captureOrder (kind : CaptureKind) (seq : Half) (order : List Nat) (s : State) : State :=
  if s.cap.running.isSome || s.cap.finishing then answer .cal seq .refusedState s
  else beginCapture kind seq order s

/-- R47: CAL_END. -/
def endOrder (seq : Half) (s : State) : State :=
  match s.cap.running with
  | some .bottom => completeCapture .bottom .ended (some seq) s
  | some .rest | none => answer .cal seq .refusedState s

/-- R49, R50: a running capture is abandoned. -/
def abandonCapture (kind : CaptureKind) (s : State) : State :=
  leaveCapture
    { s with cap := { s.cap with running := none, order := none, lastKind := some kind,
                                 lastEnd := some .abandoned } }

/-- R49: CAL_ABANDON. -/
def abandonOrder (seq : Half) (s : State) : State :=
  match s.cap.running with
  | some kind =>
    notice .calDone (answer .cal seq .completed
      (handRecord (recCal kind .abandoned 0 0 s.scanCount) (abandonCapture kind s)))
  | none => answer .cal seq .refusedState s

/-- R50: CAP at RUN clear. -/
def stopCapture (s : State) : State :=
  match s.cap.running with
  | some kind => abandonCapture kind s
  | none => s

end Sys2Proof.Machine
end

