-- ==== Sys2Proof/Machine/Journal.lean ====
section
/-!
DEFINITION. Chapter 4, 4.1 to 4.6: the journal writer (JWR).
JWR works on one item of its hand at a time, in the order it took them (log 10).
-/

namespace Sys2Proof.Machine

open Sys2Proof.Config

/-- R52: the fill. -/
def Journal.fill (j : Journal) : Nat := (j.w - j.r).toNat

/-- R60: the level condition; before a run has started there is no journal and it does not hold (log 23). -/
def Journal.level (j : Journal) : Bool := 0 < j.capacity && j.threshold ≤ j.fill

/-- R52: the offset of the slot of the record with a mark. -/
def Journal.slotOffset (j : Journal) (mark : Word) : Nat := mark.toNat % j.capacity * 8

/-- R60: JWR evaluates the level condition and sets JOURNAL_LEVEL when it holds. -/
def evaluateLevel (s : State) : State := noticeIf s.jwr.level .journalLevel s

/-- R57: a record is lost; JOURNAL_GAP is noticed when the gap count leaves 0. An order that handed it is answered all the same (R61). -/
def loseRecord (ans : Option Half) (s : State) : State :=
  answerOwed .journal ans .completed
    (noticeIf (s.jwr.gap == 0) .journalGap { s with jwr.gap := bump16 s.jwr.gap })

/-- R56, R57: a record taken with no gap counted is written while there is room, and lost otherwise. -/
def placeRecord (r : Record) (ans : Option Half) (s : State) : State :=
  if s.jwr.fill < s.jwr.capacity then { s with jwr.op := .writing r false none ans }
  else loseRecord ans s

/-- R56 to R58: JWR takes a record. -/
def takeRecord (r : Record) (ans : Option Half) (s : State) : State :=
  if s.jwr.gap = 0 then placeRecord r ans s
  else if s.jwr.fill < s.jwr.capacity then
    { s with jwr.op := .writing (recGap s.jwr.gap r.scan) true (some (r, ans)) none }
  else loseRecord ans s

/-- R59: JWR takes a read mark. One that waited in the hand behind a record write (R56) is tested here, when its turn comes, against W as it stands then, and not as it stood when ORD's read brought the value (DESIGN CHOICE, log 66). -/
def takeReadMark (v : Word) (s : State) : State :=
  if (s.jwr.w - v).toNat ≤ s.jwr.capacity then evaluateLevel { s with jwr.r := v }
  else { s with jwr.ignored := bump16 s.jwr.ignored }

/-- R62: the restart; both mark words are written after it. -/
def takeRestart (seq : Half) (s : State) : State :=
  evaluateLevel { s with jwr.w := 0, jwr.r := 0, jwr.gap := 0, jwr.op := .restartWrite seq }

/-- JWR takes one item. -/
def takeItem (i : JournalItem) (s : State) : State :=
  match i with
  | .record r ans => takeRecord r ans s
  | .readMark v => takeReadMark v s
  | .restart seq => takeRestart seq s

/-- JWR takes items of a list in order until one of them needs the store; the rest stays in its hand. -/
def takeItems : List JournalItem → State → State
  | [], s => { s with jwr.hand := [] }
  | i :: is, s =>
    if s.jwr.op = .idle then takeItems is (takeItem i s) else { s with jwr.hand := i :: is }

/-- R56: JWR works on what it has in hand. -/
def serveHand (s : State) : State := takeItems s.jwr.hand s

/-- Nothing in JWR's hand and no write of JWR under way. -/
def Journal.quiet (j : Journal) : Bool := j.op == .idle && j.hand.isEmpty

/-- Whether JWR presents an access to the arbiter (R185). -/
def Journal.presents (j : Journal) : Bool := j.op != .idle

/-- R56: the store write of a record, at its slot of the JOURNAL region. -/
def writeRecord (r : Record) (s : State) : State :=
  { s with store := writeBytes s.store (s.ord.regions.journal.base + s.jwr.slotOffset s.jwr.w) r.bytes }

/-- R56, R58: a record's store write has completed: W is incremented, a GAP clears the gap count, JOURNAL_LEVEL is evaluated, and the write mark word is to be written. -/
def recordWritten (s : State) : State :=
  match s.jwr.op with
  | .writing r isGap behind ans =>
    let t := writeRecord r s
    evaluateLevel
      { t with jwr.w := t.jwr.w + 1, jwr.gap := if isGap then 0 else t.jwr.gap,
               jwr.op := .marking behind ans }
  | .idle | .marking _ _ | .restartWrite _ | .restartRead _ | .startWrite | .startRead => s

/-- R53, R56, R58, R62: a mark word of the journal descriptor has been written. At RUN rising the write mark word comes first and the read mark word second (log 57). -/
def markWritten (s : State) : State :=
  match s.jwr.op with
  | .marking behind ans =>
    let t := answerOwed .journal ans .completed
      { (writeArea offWriteMark (toBytes 4 s.jwr.w.toNat) s) with jwr.op := .idle }
    match behind with
    | some (r, a) => placeRecord r a t
    | none => t
  | .restartWrite seq => { (writeArea offWriteMark (toBytes 4 0) s) with jwr.op := .restartRead seq }
  | .restartRead seq =>
    answer .journal seq .completed { (writeArea offReadMark (toBytes 4 0) s) with jwr.op := .idle }
  | .startWrite => { (writeArea offWriteMark (toBytes 4 0) s) with jwr.op := .startRead }
  | .startRead => { (writeArea offReadMark (toBytes 4 0) s) with jwr.op := .idle }
  | .idle | .writing _ _ _ _ => s

/-- R60: the threshold in force is recomputed while C is above 0, and its copy is written. -/
def setThreshold (s : State) : State :=
  if s.jwr.capacity = 0 then s
  else
    let v := min s.settings.threshold s.jwr.capacity
    pushOrd (.threshold v) { s with jwr.threshold := v }

/-- R53: JWR at RUN rising takes the capacity and the marks that ORD's read of the descriptor brings, or restarts both at 0. -/
def startJournal (s : State) : State :=
  let c := s.ord.regions.journal.len / 8
  let w := areaWord s offWriteMark
  let r := areaWord s offReadMark
  let ok := decide ((w - r).toNat ≤ c)
  setThreshold
    { s with jwr.capacity := c, jwr.w := if ok then w else 0, jwr.r := if ok then r else 0,
             jwr.gap := 0, jwr.ignored := 0, jwr.taking := true,
             jwr.op := if ok then .idle else .startWrite }

/-- R61: the MARK record of a JOURNAL_MARK order, which is answered when JWR has dealt with it. -/
def markOrder (seq : Half) (arg : Word) (s : State) : State :=
  handItem (.record (recMark (arg.setWidth 16) s.scanCount) (some seq)) s

/-- R62: a JOURNAL_RESTART order. -/
def restartOrder (seq : Half) (s : State) : State := handItem (.restart seq) s

end Sys2Proof.Machine
end

