-- ==== Sys2Proof/Machine/Operands.lean ====
section
/-!
DEFINITION. The operand forms: the nibbles and bytes of the link (R187, R188), order words (12.2), the settings page (12.3, R180, R195), calibration and sample map entries (12.4, 12.6), the region table (12.1), and the channels of a scan (R1).
-/

namespace Sys2Proof.Machine

open Sys2Proof.Config

/-! ## The link (R187, R188) -/

/-- R187: a byte crosses the link as two nibbles, the high one first. -/
def byteNibbles (b : Byte) : List Nib := [(b >>> 4).setWidth 4, b.setWidth 4]

/-- The nibbles of bytes. -/
def nibblesOf (l : List Byte) : List Nib := l.flatMap byteNibbles

/-- The byte two nibbles make. -/
def byteOf (hi lo : Nib) : Byte := hi.setWidth 8 <<< 4 ||| lo.setWidth 8

/-- The whole bytes a run of nibbles makes; a last nibble without its fellow is no byte. -/
def bytesOfNibbles : List Nib → List Byte
  | hi :: lo :: r => byteOf hi lo :: bytesOfNibbles r
  | _ => []

/-- The number three address bytes make, most significant first (R187). -/
def ofBytesBig (l : List Byte) : Nat := l.foldl (fun n b => n * 256 + b.toNat) 0

/-! ## The scan (R1) -/

/-- R1: the raw value of a channel: 16 times the sensor input plus the multiplexer position. -/
def scanRaw (conv : Vector (Vector (BitVec 12) 6) 16) : Vector Nat 96 :=
  Vector.ofFn fun c =>
    ((conv[c.val % 16]'(Nat.mod_lt _ (by decide)))[c.val / 16]'(by omega)).toNat

/-! ## Orders (12.2) -/

/-- An order word (12.2). -/
structure OrderWord where
  seq  : Half
  code : Byte
  arg  : Word
  deriving DecidableEq, Repr

/-- The order word in the store at `a`: 8 bytes taken together (R194). -/
def orderWordAt (m : Memory) (a : Nat) : OrderWord :=
  ⟨BitVec.ofNat 16 (readField m a 2), readByte m (a + 2), BitVec.ofNat 32 (readField m (a + 4) 4)⟩

/-- The bytes of an answer word (12.2). -/
def answerBytes (seq : Half) (r : Result) : List Byte := toBytes 2 seq.toNat ++ toBytes 1 r.code ++ [0]

/-! ## Calibration entries (12.4) -/

/-- R42, 12.4: a calibration entry as a load takes it. -/
def calEntryAt (m : Memory) (a : Nat) : CalEntry :=
  { rz := min 4095 (readField m a 2), bt := min 4095 (readField m (a + 2) 2),
    unsteady := (readByte m (a + 4)).getLsbD 1, notPressed := (readByte m (a + 4)).getLsbD 2 }

/-- 12.4: the bytes of a calibration entry, with its validity (R41). -/
def calEntryBytes (c : CalEntry) : List Byte :=
  toBytes 2 c.rz ++ toBytes 2 c.bt
    ++ toBytes 1 ((if c.rz + 256 ≤ c.bt then 1 else 0) + (if c.unsteady then 2 else 0)
      + (if c.notPressed then 4 else 0)) ++ [0, 0, 0]

/-! ## Settings pages (12.3) -/

/-- An unsigned field of a record's bytes. -/
def field (l : List Byte) (off n : Nat) : Nat := ofBytes ((l.drop off).take n)

/-- A signed byte of a page. -/
def signedByte (l : List Byte) (off : Nat) : Int := (BitVec.ofNat 8 (field l off 1)).toInt

/-- An on-off field is taken as on when nonzero (R180). -/
def onOff (l : List Byte) (off : Nat) : Bool := field l off 1 != 0

/-- R180 step 2: the fields of a page, clamped. -/
def parsePage (l : List Byte) : Settings :=
  { u := clampTo 0 1023 (field l 0x008 2), d := clampTo 0 1023 (field l 0x00A 2),
    p := clampTo 0 1023 (field l 0x00C 2), l := clampTo 0 1023 (field l 0x00E 2),
    jump := clampTo 16 1023 (field l 0x010 2), confirm := clampTo 0 7 (field l 0x012 1),
    usoft := clampTo 0 32 (field l 0x013 1), sfull := clampTo 64 65535 (field l 0x014 2),
    curve := Vector.ofFn fun i => clampTo 1 127 (field l (0x016 + i.val) 1),
    trims := Vector.ofFn fun i => max (-16) (min 15 (signedByte l (0x028 + i.val))),
    dlo := clampTo 0 1023 (field l 0x080 2), dhi := clampTo 0 1023 (field l 0x082 2),
    sOn := clampTo 0 1023 (field l 0x084 2), sOff := clampTo 0 1023 (field l 0x086 2),
    pedalStep := clampTo 1 255 (field l 0x088 1), pedalJournal := onOff l 0x089,
    kDown := clampTo 16384 32768 (field l 0x08A 2), kUp := clampTo 16384 32768 (field l 0x08C 2),
    volume := clampTo 0 255 (field l 0x08E 1),
    framing := if field l 0x08F 1 = 1 then .pulsed else .framed,
    monitor := onOff l 0x090, reserve := clampTo 0 64 (field l 0x091 1), leverEnable := onOff l 0x092,
    settle := clampTo 0 4000 (field l 0x094 2), travelLimit := clampTo 200 5000 (field l 0x096 2),
    holdLimit := clampTo 100 30000 (field l 0x098 2), dwellLimit := clampTo 20 500 (field l 0x09A 2),
    threshold := clampTo 1 65535 (field l 0x09C 2), guideLead := clampTo 0 1000 (field l 0x09E 2),
    guideMin := clampTo 1 127 (field l 0x0A0 1), mapOffset := field l 0x0A4 4 / 4 * 4 }

/-- R180 step 1, R195: the signature test; a failure names the first bad field. -/
def badSignature (l : List Byte) : Option Nat :=
  if field l 0 4 ≠ pageSignature then some 1
  else if field l 4 2 ≠ layoutVersion then some 2
  else none

/-- R8, R195: the tests of the marks in their order; a failure names the first bad field. -/
def badMarks (x : Settings) : Option Nat :=
  if x.u < 16 then some 3
  else if x.d < x.u + 32 then some 4
  else if x.p < x.d + 32 then some 5
  else if x.l < x.p + 32 then some 6
  else if 1000 < x.l then some 6
  else none

/-- R180, R195: why a page is refused, with its first bad field. -/
def pageProblem (l : List Byte) : Option (PageReason × Nat) :=
  match badSignature l, badMarks (parsePage l) with
  | some n, _ => some (.signature, n)
  | none, some n => some (.marks, n)
  | none, none =>
    if (parsePage l).dhi ≤ (parsePage l).dlo then some (.damper, 14)
    else if (parsePage l).sOn ≤ (parsePage l).sOff then some (.sostenuto, 16)
    else none

/-! ## The sample map (12.6, R95) -/

/-- The bytes of the sample map, 88 entries of 52 (12.6). -/
def mapLength : Nat := 4576

/-- The layer slot at byte `off` of a key entry, with its top velocity clamped (R95 step 1). -/
def layerAt (l : List Byte) (off : Nat) : Layer :=
  { top := clampTo 1 127 (field l off 1), offset := field l (off + 4) 4,
    length := field l (off + 8) 3, trim := field l (off + 1) 1 }

/-- R95 step 2: whether a layer is kept after those kept for its key, in a SAMPLES region of this length. -/
def keepsLayer (len : Nat) (kept : List Layer) (x : Layer) : Bool :=
  x.offset % 4 == 0 && x.length != 0 && x.offset + 4 * x.length ≤ len
    && (match kept.getLast? with
        | some y => y.top < x.top
        | none => true)

/-- R95: the layers of a key entry's bytes, from slot `i`, and how many are dropped. -/
def keptLayers (l : List Byte) (len : Nat) : Nat → Nat → List Layer → Nat → List Layer × Nat
  | 0, _, kept, dropped => (kept, dropped)
  | n + 1, i, kept, dropped =>
    let x := layerAt l (4 + 12 * i)
    if keepsLayer len kept x then keptLayers l len n (i + 1) (kept ++ [x]) dropped
    else keptLayers l len n (i + 1) kept (dropped + 1)

/-- R95: a key entry of the sample map; a count above 4 is taken as 4. -/
def keyLayers (l : List Byte) (len : Nat) : List Layer × Nat :=
  keptLayers l len (min 4 (field l 0 1)) 0 [] 0

/-! ## The region table (12.1, R183) -/

/-- The region table of the control block. -/
def regionsAt (m : Memory) (a : Nat) : Regions :=
  { samples := ⟨readField m a 4, readField m (a + 4) 4⟩,
    score := ⟨readField m (a + 8) 4, readField m (a + 12) 4⟩,
    journal := ⟨readField m (a + 16) 4, readField m (a + 20) 4⟩ }

/-- R183: a region's base and length are multiples of 8, and it lies in the store. -/
def Region.sound (r : Region) : Bool :=
  r.base % 8 == 0 && r.len % 8 == 0 && r.base + r.len ≤ storeSize

/-- R183: two regions overlap; one of length 0 overlaps nothing. -/
def Region.overlaps (a b : Region) : Bool :=
  a.len != 0 && b.len != 0 && a.base < b.base + b.len && b.base < a.base + a.len

/-- R183: a journal capacity. -/
def capacityOk (c : Nat) : Bool := [256, 512, 1024, 2048, 4096, 8192, 16384, 32768, 65536].contains c

/-- R183: the checks of RUN rising, with the work area at `area` and capacity `c`. -/
def Regions.ok (area c : Nat) (r : Regions) : Bool :=
  let w : Region := ⟨area, 0x4000⟩
  r.samples.sound && r.score.sound && r.journal.sound
    && !r.samples.overlaps w && !r.score.overlaps w && !r.journal.overlaps w
    && !r.samples.overlaps r.score && !r.samples.overlaps r.journal && !r.score.overlaps r.journal
    && capacityOk c && r.journal.len == 8 * c

end Sys2Proof.Machine
end

