-- ==== Sys2Proof/Machine/Rail.lean ====
section
/-!
DEFINITION. Chapter 5: the rail controller (RLC).
-/

namespace Sys2Proof.Machine

open Sys2Proof.Config

/-! ## States and inputs (5.2, R68) -/

/-- 5.2: the move states. -/
def RailState.moving : RailState → Bool
  | .engaging | .releasing | .paused | .reversing => true
  | .retracted | .engaged | .part | .stalled => false

/-- 5.2: the rest states. -/
def RailState.resting : RailState → Bool
  | .retracted | .engaged | .part => true
  | .engaging | .releasing | .paused | .reversing | .stalled => false

/-- R67: the states in which the motor runs. -/
def RailState.driving : RailState → Bool
  | .engaging | .releasing => true
  | .retracted | .engaged | .part | .paused | .reversing | .stalled => false

/-- R68: a switch is closed when its filtered level is low. -/
def Filtered.closed (f : Filtered) : Bool := !f.level

/-- R69: the lever position is the filtered LEVER level. -/
def Inputs.leverPosition (i : Inputs) : Target := if i.lever.level then .silent else .acoustic

/-- R68: one sample of an input with this filter length. -/
def Filtered.sample (len : Nat) (level : Bool) (f : Filtered) : Filtered :=
  if level = f.level then { f with count := 0 }
  else if len ≤ f.count + 1 then ⟨level, 0⟩
  else { f with count := f.count + 1 }

/-- R68: the four inputs sampled, with 10 ticks for the switches and 20 for LEVER and SVC. -/
def Inputs.sample (l : Lines) (i : Inputs) : Inputs :=
  ⟨i.home.sample 10 l.swHome, i.stop.sample 10 l.swStop, i.lever.sample 20 l.lever, i.svc.sample 20 l.svc⟩

/-- An input by name. -/
def Inputs.get (i : Inputs) : RailInput → Filtered
  | .swHome => i.home
  | .swStop => i.stop
  | .lever => i.lever
  | .svc => i.svc

/-- R75, R77: the direction of a target. -/
def Target.direction : Target → Direction
  | .silent => .inward
  | .acoustic => .outward

/-- R75, R77, R80: the running state of a direction. -/
def Direction.running : Direction → RailState
  | .inward => .engaging
  | .outward => .releasing

/-- R82: the state at a target's end. -/
def Target.arrivedState : Target → RailState
  | .silent => .engaged
  | .acoustic => .retracted

/-- R82: the switch of a target is closed. -/
def Inputs.atTarget (i : Inputs) : Target → Bool
  | .silent => i.stop.closed
  | .acoustic => i.home.closed

/-- The limits of the move in flight (R69); a move always has them, and where there is none the adopted page's stand in (log 37). -/
def limitsOf (s : State) : MoveLimits :=
  s.rail.limits.getD ⟨s.settings.travelLimit, s.settings.holdLimit, s.settings.dwellLimit, s.settings.settle⟩

/-! ## Changes of the record (R70, R76) -/

/-- R70: the rail record takes a value; a change of its state hands JWR a RAIL record and calls for a status refresh. -/
def railTo (r : Rail) (s : State) : State :=
  if r.state = s.rail.state then { s with rail := r }
  else
    handRecord (recRail r.state r.stop s.scanCount)
      { s with rail := r, ord.statusCall := true }

/-- R83, R84: the rail enters STALLED with a cause. -/
def stall (f : FaultCause) (c : StopCause) (s : State) : State :=
  notice .railFault
    (railTo { s.rail with state := .stalled, dir := none, limits := none, fault := f, stop := c,
                          pause := 0, dwell := 0 } s)

/-- R76: a move ends short with a cause. -/
def endShort (cause : StopCause) (s : State) : State :=
  let st := s.rail.inputs.derived
  if st = .stalled then stall .switch .switch s
  else
    noticeIf (cause != .stopped) .railPartial
      (railTo { s.rail with state := st, dir := none, limits := none, pause := 0, dwell := 0, stop := cause } s)

/-! ## Requests (R73 to R78) -/

/-- R75: a move starts. -/
def startMove (target : Target) (src : Source) (s : State) : State :=
  railTo { s.rail with
    target := target
    dir := some target.direction
    limits := some ⟨s.settings.travelLimit, s.settings.holdLimit, s.settings.dwellLimit, s.settings.settle⟩
    travel := 0
    pause := 0
    dwell := 0
    stop := .none
    source := src
    state := if s.rail.quiet then target.direction.running else .paused } s

/-- R74: the rail stands at the end a request asks for. -/
def standsAt (st : RailState) (target : Target) : Bool :=
  match st, target with
  | .retracted, .acoustic => true
  | .engaged, .silent => true
  | _, _ => false

/-- R74, R77, R78: RLC takes a request; the result is what a host order is answered. -/
def request (target : Target) (src : Source) (s : State) : State × Result :=
  match s.rail.state with
  | .stalled => (s, .refusedFault)
  | .retracted | .engaged | .part =>
    if standsAt s.rail.state target then (s, .completed)
    else if s.rail.perm = .free then (startMove target src s, .accepted)
    else (s, .refusedState)
  | .engaging | .releasing =>
    if target = s.rail.target then ({ s with rail.source := src }, .accepted)
    else (railTo { s.rail with state := .reversing, target := target, dwell := 0, source := src } s, .accepted)
  | .paused =>
    if target = s.rail.target then ({ s with rail.source := src }, .accepted)
    else ({ s with rail := { s.rail with target := target, dir := some target.direction, travel := 0,
                                         source := src } }, .accepted)
  | .reversing => ({ s with rail := { s.rail with target := target, source := src } }, .accepted)

/-- R73: a host move order. -/
def moveOrder (target : Target) (seq : Half) (s : State) : State :=
  let r := request target .host s
  answer .rail seq r.2 r.1

/-! ## The hammer-quiet condition (R71, R72, R79, R80) -/

/-- R71: a live NOTE_ON restarts the settle countdown. -/
def restartSettle (s : State) : State :=
  { s with rail.settle := if s.rail.state.moving then (limitsOf s).settle else s.settings.settle }

/-- R72: the condition, on the keys, the countdown and the capture state. -/
def quietNow (keys : Vector KeyRec 88) (settle : Nat) (cap : Capture) : Bool :=
  keys.toList.all (fun k => !k.state.timing) && settle == 0 && cap.running.isNone

/-- R72, R79, R80: an evaluation stores the quiet flag; a running move pauses when it clears and a paused one resumes when it sets. -/
def setQuiet (q : Bool) (s : State) : State :=
  let r := { s.rail with quiet := q }
  match r.state, r.dir with
  | .engaging, _ | .releasing, _ =>
    if q then { s with rail := r } else railTo { r with state := .paused, pause := 0 } s
  | .paused, some d =>
    if q then railTo { r with state := d.running, pause := 0 } s else { s with rail := r }
  | _, _ => { s with rail := r }

/-- R71: the countdown at a scan completion, not decremented when it was restarted at the same one. -/
def settleAfter (struck : Bool) (n : Nat) : Nat := if struck then n else n - 1

/-- R71, R72, R86 step 1: the settle countdown and the evaluation, on the keys as they stand for RLC. -/
def quietStep (keys : Vector KeyRec 88) (struck : Bool) (s : State) : State :=
  let n := settleAfter struck s.rail.settle
  setQuiet (quietNow keys n s.cap) { s with rail.settle := n }

/-! ## The rail tick (R82 to R86) -/

/-- R86 step 2: sampling and filtering, with the lever request of R73. -/
def sampleStep (l : Lines) (s : State) : State :=
  let i := s.rail.inputs.sample l
  let t := { s with rail.inputs := i }
  if i.lever.level != s.rail.inputs.lever.level && s.settings.leverEnable then
    (request i.leverPosition .lever t).1
  else t

/-- R84, R86 step 3: the both-closed test. -/
def switchStep (s : State) : State :=
  if s.rail.state != .stalled && s.rail.inputs.derived == .stalled then stall .switch .switch s else s

/-- R82, R86 step 4: the arrival test. -/
def arrivalStep (s : State) : State :=
  if s.rail.state.moving && s.rail.inputs.atTarget s.rail.target then
    notice .railArrived
      (railTo { s.rail with state := s.rail.target.arrivedState, dir := none, limits := none,
                            pause := 0, dwell := 0, stop := .arrived } s)
  else s

/-- R85, R86 step 5: the drift test. -/
def driftStep (s : State) : State :=
  if s.rail.state.resting && s.rail.inputs.derived != s.rail.state && s.rail.inputs.derived != .stalled then
    noticeIf (s.rail.inputs.derived == .part) .railPartial
      (railTo { s.rail with state := s.rail.inputs.derived, stop := .drift } s)
  else s

/-- R83: a tick of a running motor. -/
def countTravel (s : State) : State :=
  let t := { s with rail.travel := s.rail.travel + 1 }
  if (limitsOf s).travel ≤ s.rail.travel + 1 then stall .travel .travel t else t

/-- R79, R81: a tick of a pause. -/
def countPause (s : State) : State :=
  if (limitsOf s).hold ≤ s.rail.pause + 1 then endShort .pauseLimit s
  else { s with rail.pause := s.rail.pause + 1 }

/-- R77: the dwell ends. -/
def endDwell (s : State) : State :=
  let d := s.rail.target.direction
  railTo { s.rail with dir := some d, travel := 0, dwell := 0, pause := 0,
                       state := if s.rail.quiet then d.running else .paused } s

/-- R77: a tick of a dwell. -/
def countDwell (s : State) : State :=
  if (limitsOf s).dwell ≤ s.rail.dwell + 1 then endDwell s
  else { s with rail.dwell := s.rail.dwell + 1 }

/-- R86 step 6: the counting. -/
def countStep (s : State) : State :=
  match s.rail.state with
  | .engaging | .releasing => countTravel s
  | .paused => countPause s
  | .reversing => countDwell s
  | .retracted | .engaged | .part | .stalled => s

/-- R86 steps 2 to 6. -/
def tickSteps (l : Lines) (s : State) : State :=
  countStep (driftStep (arrivalStep (switchStep (sampleStep l s))))

/-- R68: a scan count at which there is a rail tick. -/
def isTick (n : Word) : Bool := n.toNat % 8 == 0

/-- R86: RLC's work at a scan completion. -/
def railScan (l : Lines) (keys : Vector KeyRec 88) (struck : Bool) (s : State) : State :=
  let t := quietStep keys struck s
  if isTick s.scanCount then tickSteps l t else t

/-! ## Permission and faults (R87 to R89) -/

/-- R87: FREE and HOLD are refused while PINNED with SVC high. -/
def pinnedByService (s : State) : Bool := s.rail.perm == .pinned && s.rail.inputs.svc.level

/-- R88: the permission takes a value; leaving FREE ends a move in flight. -/
def setPermission (p : Permission) (s : State) : State :=
  let t := { s with rail.perm := p }
  if p != .free && s.rail.perm == .free && s.rail.state.moving then endShort .held t else t

/-- R87, R88: a permission order. -/
def permissionOrder (p : Permission) (seq : Half) (s : State) : State :=
  if p != .pinned && pinnedByService s then answer .rail seq .refusedState s
  else answer .rail seq .completed (setPermission p s)

/-- R89: CLEAR_FAULT. -/
def clearFaultOrder (seq : Half) (s : State) : State :=
  if s.rail.state = .stalled then
    if s.rail.inputs.derived = .stalled then answer .rail seq .refusedFault s
    else
      answer .rail seq .completed
        (railTo { s.rail with state := s.rail.inputs.derived, fault := .none, stop := .none, travel := 0 } s)
  else answer .rail seq .refusedState s

/-! ## RUN (R91, R92) -/

/-- RLC hands JWR its RAIL record whatever the state did (R91, R92). -/
def railRecordNow (s : State) : State := handRecord (recRail s.rail.state s.rail.stop s.scanCount) s

/-- R91: the rest states at RUN clear. -/
def stopResting (s : State) : State :=
  let st := s.rail.inputs.derived
  if st = .stalled then
    railRecordNow (notice .railFault
      { s with rail := { s.rail with state := .stalled, fault := .switch, stop := .switch } })
  else railRecordNow { s with rail := { s.rail with state := st, stop := .stopped } }

/-- R91: RLC at RUN clear. -/
def railStop (s : State) : State :=
  if s.rail.state.moving then endShort .stopped s
  else if s.rail.state = .stalled then railRecordNow s
  else stopResting s

/-- R92: the rail record at RUN rising, with these raw levels. -/
def railAtStart (l : Lines) (r : Rail) : Rail :=
  let i := Inputs.take l
  let q := { r with inputs := i, dir := none, limits := none, travel := 0, pause := 0, dwell := 0,
                    settle := 0, quiet := true }
  if r.state = .stalled then q
  else if i.derived = .stalled then { q with state := .stalled, fault := .switch, stop := .switch }
  else { q with state := i.derived, stop := if i.derived = r.state then r.stop else .drift }

/-- R92: RLC at RUN rising; its record is handed later (R191 step 6). -/
def railStart (l : Lines) (s : State) : State :=
  let r := railAtStart l s.rail
  noticeIf (s.rail.state != .stalled && r.state == .stalled) .railFault { s with rail := r }

end Sys2Proof.Machine
end

