-- ==== Sys2Proof/Machine/Score.lean ====
section
/-!
DEFINITION. Chapter 8, 8.1 and 8.2, and 9.5: the score chain, the score reader (SCR) and the seek.
-/

namespace Sys2Proof.Machine

open Sys2Proof.Config

/-! ## Playback states and the flush (R141, R143) -/

/-- A block offset with its three low bits ignored (R134). -/
def blockOffset (n : Nat) : Nat := n / 8 * 8

/-- R143: the playback state takes a value; a change notices PLAY_STATE and calls for a status refresh. -/
def setPlay (st : PlayState) (s : State) : State :=
  if s.play.state = st then s
  else notice .playState { s with play.state := st, ord.statusCall := true }

/-- R141: a flush. A read of the reader that waits at the arbiter stays there, and is discarded when it completes (log 50). -/
def flush (s : State) : State :=
  { s with scr := { s.scr with queue := [], serial := s.scr.serial + 1, state := .idle, block := none,
                               header := none } }

/-- The PLAY answer a seek in flight is owed (R168, R171). -/
def answerSeek (r : Result) (s : State) : State :=
  match s.play.seek with
  | some k => answerOwed .play k.order r { s with play.seek := none }
  | none => s

/-- R149 steps 1 to 3 and 5, R140: playback ends with a cause. -/
def endPlayback (cause : PlayEnd) (s : State) : State :=
  setPlay .ended
    (flush (dropPlayback { s with play := { s.play with endCause := cause, held := KeySet.none, prompts := [] } }))

/-- R140: a chain read would reach past the SCORE region; `off` is the offset of that read (log 41). -/
def scoreFault (off : Nat) (s : State) : State :=
  answerSeek .notFound (endPlayback .region (regionFaultAt .score off s))

/-! ## The retained block (R142) -/

/-- R142: the retained block; the first-block offset is the one the reader last took (log 51). While the reader waits for ORD's read of that offset it has no block, and no status copy is taken (log 14). -/
def retained (s : State) : Option Nat :=
  if s.play.state = .stopped ∨ s.play.state = .ended then none
  else if s.play.loop.armed then
    match s.play.anchor with
    | some a => some a.block
    | none => some s.scr.firstBlock
  else
    match s.scr.queue with
    | e :: _ => some e.block
    | [] => s.scr.block

/-! ## The reader's next read (R137 to R140) -/

/-- A store read is presented, stamped with the read serial (R136, R137). -/
def presentRead (kind : ReadKind) (block : Nat) (s : State) : State :=
  { s with scr.read := some ⟨s.scr.serial, kind, block, s.scr.index⟩ }

/-- R137, R140: the reader reads a header, after the region check. -/
def readHeader (block : Nat) (s : State) : State :=
  if s.ord.regions.score.len < block + 8 then scoreFault block s else presentRead .header block s

/-- R137: how many events the next read takes: at most 16, and no more than the block and the queue give room for. -/
def readCount (r : Reader) (h : HeaderCopy) : Nat :=
  Nat.min 16 (Nat.min (h.count - r.index) (queueRoom - r.queue.length))

/-- R169, R170: the seek ends without its mark. -/
def seekNotFound (s : State) : State := answerSeek .notFound (setPlay .stopped (flush s))

/-- R138, R169: the reader has taken every event of its block. -/
def followLink (h : HeaderCopy) (s : State) : State :=
  if h.hasNext then
    readHeader h.next { s with scr := { s.scr with block := some h.next, header := none, index := 0 } }
  else if s.play.state = .seeking then seekNotFound s
  else { s with scr.state := .waiting }

/-- R137, R139: a reader in READING with no store read under way goes on. -/
def readerGo (s : State) : State :=
  if s.scr.state = .reading ∧ s.scr.read = none then
    if queueRoom ≤ s.scr.queue.length then { s with scr.state := .full }
    else
      match s.scr.block, s.scr.header with
      | some b, none => readHeader b s
      | some b, some h =>
        if s.scr.index < h.count then presentRead (.events (readCount s.scr h)) b s else followLink h s
      | none, _ => s
  else s

/-- R138: a WAITING reader reads its block's header again at an audio block. -/
def reread (s : State) : State :=
  if s.scr.state = .waiting ∧ s.scr.read = none then
    match s.scr.block with
    | some b => readHeader b s
    | none => s
  else s

/-! ## Events (R135) -/

/-- The bytes of a score event (12.6). -/
structure RawEvent where
  delta : Nat
  kind  : Nat
  track : Fin 4
  id    : Nat
  value : Nat
  deriving DecidableEq, Repr

/-- A score event as the store holds it (12.6). -/
def rawEvent (m : Memory) (a : Nat) : RawEvent :=
  { delta := readField m a 2, kind := readField m (a + 2) 1,
    track := ⟨readField m (a + 3) 1 % 4, Nat.mod_lt _ (by decide)⟩,
    id := readField m (a + 4) 1, value := readField m (a + 6) 2 }

/-- The events a completed read brings, in chain order. -/
def rawEvents (m : Memory) (a : Nat) : Nat → List RawEvent
  | 0 => []
  | n + 1 => rawEvent m a :: rawEvents m (a + 8) n

/-- R135: the due of an event, held at 2^32 - 1. -/
def dueAfter (last delta : Nat) : Nat := min positionMax (last + delta * 48)

/-- R135: the check and clamp of an event; none for a skipped one. -/
def checkEvent (e : RawEvent) : Option (EventKind × Nat × Nat) :=
  match EventKind.ofCode e.kind with
  | some .note => if e.id < 88 then some (.note, e.id, clampTo 1 127 e.value) else none
  | some .release => if e.id < 88 then some (.release, e.id, e.value) else none
  | some .pedal => if e.id ≤ 2 then some (.pedal, e.id, min 1023 e.value) else none
  | some .mark => if e.id = 0 then none else some (.mark, e.id, e.value)
  | some .fin => some (.fin, 0, 0)
  | none => none

/-- R139, R145: an entry joins the back of the queue; in STALLED playback becomes PLAYING. -/
def joinQueue (e : QueueEntry) (s : State) : State :=
  let t := { s with scr.queue := s.scr.queue ++ [e] }
  if s.play.state = .stalled then setPlay .playing t else t

/-- R165, R170: the loop anchor recorded for a mark. -/
def recordAnchor (id block index due : Nat) (s : State) : State :=
  { s with play.anchor := some ⟨id, block, index, due, s.playback.damper, s.playback.soft, s.playback.sostenuto⟩ }

/-- R170: the seek finds its mark. -/
def seekFound (id block index due : Nat) (s : State) : State :=
  let t := { s with play := { s.play with position := due, remainder := 0 } }
  let t := if t.play.loop.armed && t.play.loop.startId == id then recordAnchor id block index due t else t
  answerSeek .completed (setPlay .playing t)

/-- R169: an event taken by a seek for mark `m`. -/
def seekEvent (m : Nat) (e : QueueEntry) (s : State) : State :=
  match e.kind with
  | .pedal => playbackPedal e.id e.value s
  | .mark => if e.id = m then seekFound m e.block e.index e.due s else s
  | .fin => seekNotFound s
  | .note | .release => s

/-- R138: an event that joins the queue; after END the reader is DONE. -/
def queueEvent (e : QueueEntry) (s : State) : State :=
  let t := joinQueue e s
  if e.kind = .fin then { t with scr.state := .done } else t

/-- R135, R137, R169: the reader takes one event of its block. -/
def takeEvent (block : Nat) (e : RawEvent) (s : State) : State :=
  let due := dueAfter s.scr.lastDue e.delta
  let t := { s with scr := { s.scr with index := s.scr.index + 1, lastDue := due } }
  match checkEvent e with
  | none => { t with play.skipped := bump16 t.play.skipped }
  | some (kind, id, value) =>
    let q : QueueEntry := ⟨kind, e.track, id, value, due, block, s.scr.index, false⟩
    match s.play.state, s.play.seek with
    | .seeking, some k => seekEvent k.markId q t
    | _, _ => queueEvent q t

/-- R137: the events of a read, in order, while the reader is READING. -/
def takeEvents (block : Nat) : List RawEvent → State → State
  | [], s => s
  | e :: es, s => if s.scr.state = .reading then takeEvents block es (takeEvent block e s) else s

/-! ## The end of a store read (R134, R137, R138) -/

/-- The store address of an offset in the SCORE region (R184). -/
def scoreAddr (s : State) (off : Nat) : Nat := s.ord.regions.score.base + off

/-- Whether a header in the store is READY (12.6). -/
def headerReady (m : Memory) (a : Nat) : Bool := readByte m a == 0x5A#8

/-- A READY header as the store holds it (R134, 12.6). -/
def headerAt (m : Memory) (a : Nat) : HeaderCopy :=
  { count := min 240 (readField m (a + 1) 1), hasNext := (readByte m (a + 2)).getLsbD 0,
    next := blockOffset (readField m (a + 4) 4) }

/-- R137, R138, R140: the reader takes a header. -/
def takeHeader (block : Nat) (s : State) : State :=
  let a := scoreAddr s block
  if headerReady s.store a then
    let h := headerAt s.store a
    if s.ord.regions.score.len < block + 8 + 8 * h.count then
      scoreFault (block + 8 + 8 * s.scr.index) s
    else readerGo { s with scr := { s.scr with header := some h, state := .reading } }
  else { s with scr.state := .waiting }

/-- R137: the reader takes the events of a read and goes on. -/
def takeRead (r : ScoreRead) (s : State) : State :=
  match r.kind with
  | .header => takeHeader r.block s
  | .events n =>
    readerGo (takeEvents r.block (rawEvents s.store (scoreAddr s (r.block + 8 + 8 * r.index)) n) s)

/-- R137: a reader store read completes; one whose serial a flush has replaced is discarded. -/
def scoreReadDone (s : State) : State :=
  match s.scr.read with
  | some r =>
    let t := { s with scr.read := none }
    if r.serial = s.scr.serial then takeRead r t else readerGo t
  | none => s

/-- R139: at a dispatch that leaves 16 entries or fewer, a FULL reader reads on. -/
def resumeReader (s : State) : State :=
  if s.scr.state = .full ∧ s.scr.queue.length ≤ 16 then readerGo { s with scr.state := .reading } else s

/-- The reader waits for ORD's read of the score descriptor (R172). -/
def awaitsFirst (s : State) : Bool := s.scr.state == .reading && s.scr.block.isNone

/-- R151 step 7, R168 step 5: the reader starts the chain, once ORD has read the first-block offset for it (R172; log 13). -/
def restartReader (s : State) : State :=
  pushOrd (.firstBlock s.scr.serial)
    { s with scr := { s.scr with block := none, header := none, index := 0, lastDue := 0, state := .reading } }

/-- R134, R172: ORD has read the first-block offset; a reader position that a flush has replaced does not take it. -/
def takeFirstBlock (serial : Word) (s : State) : State :=
  if awaitsFirst s && s.scr.serial == serial then
    let first := blockOffset (areaWord s offFirstBlock).toNat
    readerGo { s with scr := { s.scr with firstBlock := first, block := some first } }
  else s

/-- R168 steps 5 and 6, R171: a seek of mark `m` starts, with the order that is owed its answer. -/
def startSeek (m : Nat) (order : Option Half) (s : State) : State :=
  let t := restartReader s
  notice .playState
    { t with play := { t.play with state := .seeking, seek := some ⟨m, order⟩ }, ord.statusCall := true }

end Sys2Proof.Machine
end

