-- ==== Sys2Proof/Machine/Adoption.lean ====
section
/-!
DEFINITION. Chapter 10, 10.5: the adoption of a settings page (ORD), with the calibration load (R42) and the sample map load (R95, R96).
-/

namespace Sys2Proof.Machine

open Sys2Proof.Config

/-- The reads of a page: its 42 words with fields, then the rest of its 2 KiB (log 15). -/
def pageReads : List OrdAccess := (List.range 42).map OrdAccess.pageWord ++ [.pageTail]

/-- R179: an adoption starts; its page status is written, then its page is read. -/
def startAdoption (page : Bool) (stamp : Half) (s : State) : State :=
  let v : PageStatus := ⟨.adopting, page, stamp, .none, 0, 0⟩
  pushOrds (.pageStatus v :: pageReads)
    { s with ord.pageStatus := v,
             ord.adoption := { Adoption.reset with phase := .page, page := page, stamp := stamp } }

/-- The page a selector word names: bit 0 (12.1). -/
def selectedPage (w : Word) : Bool := w.getLsbD 0

/-- The stamp of a selector word: bits 16 to 31 (12.1). -/
def selectedStamp (w : Word) : Half := (w >>> 16).setWidth 16

/-- R179: a selector word is taken. -/
def takeSelector (w : Word) (s : State) : State :=
  if s.running then
    if s.ord.adoption.phase = .idle then startAdoption (selectedPage w) (selectedStamp w) s
    else { s with ord.adoption.next := true }
  else s

/-- R179: the selector word read again for a further adoption; where a triggered read in between has started that adoption, it starts none (log 43). -/
def takeNextSelector (s : State) : State :=
  if s.ord.adoption.phase = .idle then takeSelector (areaWord s offSelector) s else s

/-! ## Reads in flight (R42, R95, R180) -/

/-- R180: a word of the page, as it stands when read. -/
def takePageWord (i : Nat) (s : State) : State :=
  { s with ord.adoption.bytes :=
      s.ord.adoption.bytes ++ readBytes s.store (areaAddr s (pageOffset s.ord.adoption.page) + 4 * i) 4 }

/-- R42: an entry of the calibration table, as it stands when read; a read that begins while a capture's table writes are not done is stale. -/
def takeTableEntry (i : Nat) (s : State) : State :=
  { s with ord.adoption :=
      { s.ord.adoption with
        table := s.ord.adoption.table ++ [calEntryAt s.store (areaAddr s (offCalTable + 8 * i))],
        begun := true,
        stale := s.ord.adoption.stale || (i == 0 && s.cap.finishing) } }

/-- R95: VCE takes the layers of a key entry whose last word has been read. -/
def Adoption.takeEntry (len : Nat) (a : Adoption) : Adoption :=
  let k := keyLayers a.entry len
  { a with entry := [], map := a.map ++ [k.1], dropped := a.dropped + k.2 }

/-- R95: a word of the sample map, as it stands when read; a key entry has 13. -/
def takeMapWord (i : Nat) (s : State) : State :=
  let r := s.ord.regions.samples
  let w := readBytes s.store (r.base + (s.ord.adoption.checked.mapOffset + 4 * i)) 4
  let a := { s.ord.adoption with entry := s.ord.adoption.entry ++ w }
  { s with ord.adoption := if i % 13 = 12 then a.takeEntry r.len else a }

/-- R180: the reads that follow a page that passes, in rising offset (log 15); in a start sequence that of the journal descriptor comes last (R53, R172; log 13). -/
def tableReads (withMap starting : Bool) : List OrdAccess :=
  (List.range 96).map OrdAccess.tableEntry
    ++ (if withMap then (List.range 1144).map OrdAccess.mapWord else [])
    ++ (if starting then [.startMarks] else [])

/-- R180, R96: a page that passed every test goes on to the table and, where it lies inside its region, the map. -/
def goOn (s : State) : State :=
  let set := parsePage s.ord.adoption.bytes
  let inside := decide (set.mapOffset + mapLength ≤ s.ord.regions.samples.len)
  let t := if inside then s else regionFaultAt .samples set.mapOffset s
  pushOrds (tableReads inside (s.start == .adopting))
    { t with ord.adoption := { t.ord.adoption with phase := .tables, checked := set, mapRead := inside } }

/-- R180: the page status of a refusal. -/
def refusePage (reason : PageReason) (bad : Nat) (s : State) : State :=
  let v : PageStatus := ⟨.refused, s.ord.adoption.page, s.ord.adoption.stamp, reason, bad, 0⟩
  pushOrd (.pageStatus v) { s with ord.pageStatus := v }

/-! ## The completion (R181) -/

/-- R42: the working calibration after the completion. -/
def loadedCal (s : State) : Vector CalEntry 96 :=
  if s.ord.adoption.stale then s.cal
  else Vector.ofFn fun c => (s.ord.adoption.table[c.val]?).getD s.cal[c]

/-- R95, R96: the new map copy. -/
def loadedMap (s : State) : Vector (List Layer) 88 :=
  Vector.ofFn fun k => if s.ord.adoption.mapRead then (s.ord.adoption.map[k.val]?).getD [] else []

/-- R26: the key table at the completion. -/
def adoptKeys (after : Vector CalEntry 96) (s : State) : Vector KeyStep 88 :=
  Vector.ofFn fun k => adoptKey s.cal[keyChannel k] after[keyChannel k] s.keys[k]

/-- R6, R31: the pedal records at the completion. -/
def adoptPedals (after : Vector CalEntry 96) (s : State) : Vector PedalStep 3 :=
  Vector.ofFn fun p => adoptPedal s.cal[pedalChannel p] after[pedalChannel p] s.pedals[p]

/-- R125, R133: the mixer at the completion. -/
def Mixer.adopt (set : Settings) (running : Bool) (m : Mixer) : Mixer :=
  { m with framing := set.framing, target := if running then set.volume else m.target }

/-- R181: every setting, the calibration and the map copy take effect together. -/
def takePage (s : State) : State :=
  let set := s.ord.adoption.checked
  let after := loadedCal s
  let ks := adoptKeys after s
  let ps := adoptPedals after s
  let v : PageStatus := ⟨.adopted, s.ord.adoption.page, s.ord.adoption.stamp, .none, 0, s.ord.adoption.dropped⟩
  noticeIf (faultOf ks || pedalFault ps) .keyFault
    { s with settings := set, cal := after, mapCopy := loadedMap s, keys := keysOf ks, pedals := pedalsOf ps,
             live := takeDepths (pedalsOf ps) s.live, mixer := s.mixer.adopt set s.running,
             ord.forcePage := s.ord.adoption.page, ord.forceStamp := s.ord.adoption.stamp,
             ord.pageStatus := v }

/-- R22, R26: the NOTE_OFFs of keys that an adoption disables; VCE takes a release only while running (R117). -/
def adoptOffs (running : Bool) (events : List KeyEvent) (s : State) : State :=
  if running then takeOffs events s else handRecords (events.map (KeyEvent.record s.scanCount)) s

/-- R38: both contexts are evaluated; a LIVE rise takes the keys that are note-on once the adoption has disabled keys (R26; log 46). -/
def adoptContexts (s : State) : State := evaluateNow .playback (evaluateNow .live s)

/-- R26, R38, R108: the releases, the contexts and the trim, in the order chosen (log 27). -/
def adoptOrder (c : AdoptionChoice) (offs : State → State) (s : State) : State :=
  match c.contextsFirst, c.trimFirst with
  | false, false => trimReserve 80 (adoptContexts (offs s))
  | true, false => trimReserve 80 (offs (adoptContexts s))
  | false, true => adoptContexts (trimReserve 80 (offs s))
  | true, true => offs (adoptContexts (trimReserve 80 s))

/-- R60: the threshold in force is recomputed, and the level evaluated where it changed. -/
def adoptThreshold (s : State) : State :=
  let t := setThreshold s
  if t.jwr.threshold = s.jwr.threshold then t else evaluateLevel t

/-- R181: an adoption completes. The write of the threshold copy (R60) is queued before that of the page status (log 60). -/
def completeAdoption (c : AdoptionChoice) (s : State) : State :=
  let events := eventsOf (adoptKeys (loadedCal s) s)
  let t := adoptOrder c (adoptOffs s.running events) (takePage s)
  let t := if !s.settings.pedalJournal && t.settings.pedalJournal then syncJournaled t else t
  let t := reorderHand s.jwr.hand.length c.journalOrder (adoptThreshold t)
  pushOrd (.pageStatus t.ord.pageStatus) t

end Sys2Proof.Machine
end

