-- ==== Sys2Proof/Machine/Mixer.lean ====
section
/-!
DEFINITION. Chapter 7: the release factor at work, mixing, the clip flag, the master volume and the headphone link (MXO), with the voice table's part of an audio block (R113).
-/

namespace Sys2Proof.Machine

open Sys2Proof.Config

/-- R35: the release factor of a context; the rounding goes toward k_down. -/
def releaseFactor (set : Settings) (h : Nat) : Nat :=
  ((set.kDown : Int) + Int.tdiv (((set.kUp : Int) - (set.kDown : Int)) * (h : Int)) 256).toNat

/-- R122: the contribution of one sample; both quotients round toward minus infinity. -/
def contribution (g e : Nat) (x : Half) : Int := x.toInt * (g : Int) / 32768 * (e : Int) / 32768

/-- R122: what one voice adds to the 64 frames of a block, left and right. -/
def Voice.contributions (v : Voice) : List (Int × Int) :=
  v.played.map fun f => (contribution v.gain v.env f.1, contribution v.gain v.env f.2)

/-- Add one voice's contributions to the accumulators (R123). -/
def addTo (acc c : List (Int × Int)) : List (Int × Int) :=
  List.zipWith (fun a b => (a.1 + b.1, a.2 + b.2)) acc c

/-- R123: the accumulators of a block over the voices mixed. -/
def accumulators (vs : List Voice) : List (Int × Int) :=
  vs.foldl (fun acc v => addTo acc v.contributions) (List.replicate 64 (0, 0))

/-- R123: an output value before the clamp. -/
def scaled (mc : Nat) (acc : Int) : Int := acc * (mc : Int) / 256

/-- R124: an output value is clamped when it lies outside 16 bits. -/
def outside (y : Int) : Bool := y < -32768 || 32767 < y

/-- R123: the output sample. -/
def outputSample (mc : Nat) (acc : Int) : Half := BitVec.ofInt 16 (max (-32768) (min 32767 (scaled mc acc)))

/-- R123: the 64 output frames of a block. -/
def outputFrames (mc : Nat) (acc : List (Int × Int)) : List Frame :=
  acc.map fun a => (outputSample mc a.1, outputSample mc a.2)

/-- R124: whether a block has a clamped value. -/
def clips (mc : Nat) (acc : List (Int × Int)) : Bool :=
  acc.any fun a => outside (scaled mc a.1) || outside (scaled mc a.2)

/-- R126: the current master volume moves by at most 4 toward its target. -/
def ramp (mc target : Nat) : Nat :=
  if mc < target then mc + min 4 (target - mc) else mc - min 4 (mc - target)

/-- The release factor of the context of a voice's source (R120). -/
def factorFor (s : State) (v : Voice) : Nat := releaseFactor s.settings (contextOf s v.source).h

/-- R113 steps 1 and 2: the voice table prepared for mixing. -/
def preparedVoices (s : State) : Vector Voice 80 :=
  Vector.ofFn fun i =>
    (s.voices[i]).prepared (heldBy s s.voices[i].source)[s.voices[i].key] (factorFor s s.voices[i])

/-- R113 step 3: the voices mixed at a block. -/
def mixedVoices (vs : Vector Voice 80) : List Voice := vs.toList.filter fun v => v.state.mixed

/-- R114: the underruns of a block. -/
def underrunCount (vs : List Voice) : Nat := (vs.filter fun v => v.underruns).length

/-- R113: VCE's work on the voice table at an audio block. -/
def voiceBlock (s : State) : State :=
  let vs := preparedVoices s
  let n := underrunCount (mixedVoices vs)
  noticeIf (0 < n) .audioUnderrun
    (pruneOrder { s with voices := Vector.ofFn fun i => (vs[i]).finished,
                         stats.underruns := min countMax (s.stats.underruns + n) })

/-- R124: a block with a clamped value counts and sets the clip flag, which notices when it was clear. -/
def clipBlock (s : State) : State :=
  noticeIf (!s.mixer.clip) .audioClip
    { s with mixer.clip := true, mixer.clipCount := bump16 s.mixer.clipCount }

/-- R122 to R128: MXO's work at an audio block over these mixed voices: the ramp, the mix, the clip flag, and the block's place on the headphone link. -/
def mixBlock (vs : List Voice) (s : State) : State :=
  let mc := ramp s.mixer.mc s.mixer.target
  let acc := accumulators vs
  let t := { s with
    mixer.mc := mc
    phones.sending := s.phones.computed
    phones.computed := outputFrames mc acc
    phones.index := 0
    phones.mute := s.phones.muteNext
    phones.muteNext := mc == 0 }
  if clips mc acc then clipBlock t else t

/-- R113, R122 to R128: VCE's, SFU's and MXO's work at an audio block: SFU tests the voices once all of them have consumed (R109; log 25). -/
def soundBlock (s : State) : State := mixBlock (mixedVoices (preparedVoices s)) (fetchNext (voiceBlock s))

/-- R128, R130: the next output frame begins, with the framing in force. -/
def frameStart (s : State) : State :=
  match s.phones.sending[s.phones.index]? with
  | some f => { s with phones.current := f, phones.framing := s.mixer.framing,
                       phones.index := s.phones.index + 1 }
  | none => s

end Sys2Proof.Machine
end

