-- ==== Sys2Proof/Machine/Playback.lean ====
section
/-!
DEFINITION. Chapter 8, 8.3 to 8.7, and chapter 9: the playback clock and guide matcher (PBC), dispatch, loops and the PLAY orders.
-/

namespace Sys2Proof.Machine

open Sys2Proof.Config

/-- The key an event's id names; an id of a queued NOTE or RELEASE is below 88 (R135). -/
def keyOfId (n : Nat) : Fin 88 := ⟨n % 88, Nat.mod_lt _ (by decide)⟩

/-! ## The prompt set (R156 to R161) -/

/-- R157: the lead window in score frames. -/
def leadWindow (s : State) : Nat := s.settings.guideLead * 48

/-- The entry of the prompt set for a key. -/
def promptFor (key : Fin 88) (ps : List Prompt) : Option Prompt := ps.find? fun p => p.key == key

/-- R156: a prompt takes its place in due order, behind those of its own due (log 53). -/
def insertPrompt (p : Prompt) : List Prompt → List Prompt
  | [] => [p]
  | q :: qs => if p.due < q.due then p :: q :: qs else q :: insertPrompt p qs

/-- The unmet entries with a due at most `n`. -/
def unmetBy (n : Nat) (ps : List Prompt) : List Prompt := ps.filter fun p => !p.met && p.due ≤ n

/-- R158: a met entry leaves the set once the position is at or beyond its due. -/
def dropMet (n : Nat) (ps : List Prompt) : List Prompt := ps.filter fun p => !(p.met && p.due ≤ n)

/-- What an admission did with a NOTE (R157). -/
inductive Admission where
  | admitted | merged | dropped | deferred
  deriving DecidableEq, Repr

/-- R157: the outcome for a NOTE of this key by the prompt set. -/
def admission (key : Fin 88) (ps : List Prompt) : Admission :=
  match promptFor key ps with
  | some p => if p.met then .deferred else .merged
  | none => if ps.length < promptRoom then .admitted else .dropped

/-- R157: the effect of an admission. -/
def admitNote (a : Admission) (e : QueueEntry) (s : State) : State :=
  match a with
  | .admitted => { s with play.prompts := insertPrompt ⟨keyOfId e.id, e.due, false⟩ s.play.prompts }
  | .dropped => handRecord (recGuide (keyOfId e.id) .overflow 0 s.scanCount) s
  | .merged | .deferred => s

/-- R157: whether the admission pass considers an entry, with the candidate position plus the lead window `bound`. -/
def considered (s : State) (bound : Nat) (e : QueueEntry) : Bool :=
  e.kind == .note && !e.dealt && s.play.tracks[e.track] == .guide && e.due ≤ bound

/-- R157: the admission pass over a list of queue entries, which come back with their marks. -/
def admissionPass (bound : Nat) : List QueueEntry → State → List QueueEntry × State
  | [], s => ([], s)
  | e :: es, s =>
    if considered s bound e then
      let a := admission (keyOfId e.id) s.play.prompts
      let r := admissionPass bound es (admitNote a e s)
      ({ e with dealt := a != .deferred } :: r.1, r.2)
    else
      let r := admissionPass bound es s
      (e :: r.1, r.2)

/-- R157: the admission pass over the event queue, with this candidate position. -/
def admitQueue (candidate : Nat) (s : State) : State :=
  let r := admissionPass (candidate + leadWindow s) s.scr.queue s
  { r.2 with scr.queue := r.1 }

/-- R161: in WAITING, with no unmet entry due, playback goes on. -/
def testWaiting (s : State) : State :=
  if s.play.state = .waiting ∧ unmetBy s.play.position s.play.prompts = [] then setPlay .playing s else s

/-- The prompt set with a key's entry marked met. -/
def markMet (key : Fin 88) (ps : List Prompt) : List Prompt :=
  ps.map fun p => if p.key = key then { p with met := true } else p

/-- R160: the timing error in score milliseconds. -/
def timingError (position due : Nat) : Int := Int.tdiv ((position : Int) - (due : Int)) 48

/-- R160: the states in which the guide takes a strike. -/
def PlayState.guides : PlayState → Bool
  | .playing | .stalled | .waiting => true
  | .stopped | .seeking | .paused | .ended => false

/-- R160: the guide matcher takes a live NOTE_ON. -/
def guideStrike (key : Fin 88) (velocity : Nat) (s : State) : State :=
  if s.play.state.guides && s.settings.guideMin ≤ velocity then
    match s.play.prompts.find? fun p => p.key == key && !p.met with
    | some p =>
      testWaiting (handRecord (recGuide key .met (timingError s.play.position p.due) s.scanCount)
        { s with play.prompts := dropMet s.play.position (markMet key s.play.prompts) })
    | none =>
      if s.play.state = .waiting then handRecord (recGuide key .wrong 0 s.scanCount) s else s
  else s

/-! ## The clock (R144, R145, R158) -/

/-- R144: what the clock works out from the tempo and the remainder. -/
def hundredths (p : Play) : Nat := 64 * p.tempo + p.remainder

/-- R144: the limit on the position, which never falls; none once END is fetched but the highest position (log 19). -/
def limited (s : State) (target : Nat) : Nat :=
  if s.scr.state = .done then Nat.max s.play.position (min positionMax target)
  else
    match s.scr.queue.getLast? with
    | some e => min target (Nat.max s.play.position e.due)
    | none => s.play.position

/-- R158 step 1: the smallest due of the unmet entries, as a bound on the position, which never falls (R144). -/
def promptBound (s : State) (candidate : Nat) : Nat :=
  match s.play.prompts.find? fun p => !p.met with
  | some p => Nat.max s.play.position (min candidate p.due)
  | none => candidate

/-- R158 step 3, R159: the clock waits at an unmet prompt. -/
def enterWaiting (s : State) : State := notice .guideWait (setPlay .waiting s)

/-- R158: the prompt rule. -/
def promptRule (candidate : Nat) (s : State) : State :=
  let pos := promptBound s candidate
  let t := { s with play := { s.play with position := pos, prompts := dropMet pos s.play.prompts } }
  if unmetBy pos t.play.prompts = [] then t else enterWaiting t

/-- R144, R157, R158: the advance. -/
def advance (s : State) : State :=
  let n := hundredths s.play
  let candidate := limited s (s.play.position + n / 100)
  promptRule candidate (admitQueue candidate { s with play.remainder := n % 100 })

/-- R145: the stall test. -/
def stalls (s : State) : Bool := s.scr.queue.isEmpty && s.scr.state == .waiting

/-- R146 steps 1 and 2. -/
def clockStep (s : State) : State :=
  match s.play.state with
  | .playing => if stalls s then notice .playStall (setPlay .stalled s) else advance s
  | .waiting => admitQueue s.play.position s
  | .stopped | .seeking | .stalled | .paused | .ended => s

/-! ## Loops (R165 to R167) -/

/-- R166 step 1: the count after a jump. -/
def countDown (n : Nat) : Nat := if n = 255 then 255 else n - 1

/-- R166 steps 5 and 6: the jump to the anchor. -/
def jumpTo (a : Anchor) (s : State) : State :=
  let t := restorePlayback a s
  readerGo (setPlay .playing
    { t with play := { t.play with position := a.position, remainder := 0 }
             scr := { t.scr with block := some a.block, header := none, index := a.index + 1,
                                 lastDue := a.position, state := .reading } })

/-- R166 steps 2 to 4: what a jump, START, STOP and a seek all empty. -/
def dropWork (s : State) : State :=
  let t := fadePlayback (flush s)
  { t with play := { t.play with prompts := [], held := KeySet.none } }

/-- R166: the loop jumps. -/
def loopJump (s : State) : State :=
  let t := dropWork { s with play.loop.count := countDown s.play.loop.count, ord.statusCall := true }
  match s.play.anchor with
  | some a => jumpTo a t
  | none => startSeek s.play.loop.startId none t

/-- R167: the end mark passes through. -/
def loopPass (s : State) : State :=
  { s with play := { s.play with loop := { s.play.loop with armed := false }, anchor := none } }

/-- R148, R165 to R167: a MARK is dispatched. -/
def dispatchMark (e : QueueEntry) (s : State) : State :=
  if s.play.loop.armed then
    if e.id = s.play.loop.startId then recordAnchor e.id e.block e.index e.due s
    else if e.id = s.play.loop.endId then
      if 0 < s.play.loop.count then loopJump s else loopPass s
    else s
  else s

/-! ## Dispatch (R147 to R149, R159) -/

/-- R147: a NOTE on a SOUND track. -/
def soundNote (e : QueueEntry) (s : State) : State :=
  let key := keyOfId e.id
  let t := startRequest .playback key (softened e.value s.playback.soft s.settings.usoft).toNat s
  { t with play.held := t.play.held.set key.val true key.isLt }

/-- R159: a NOTE on a GUIDE track. One whose key has a met entry with a later due makes no entry and no record (log 52). -/
def guideNote (e : QueueEntry) (s : State) : State :=
  if e.dealt then s
  else
    let a := admission (keyOfId e.id) s.play.prompts
    let t := admitNote a e s
    if a = .admitted ∧ s.play.state = .playing then enterWaiting t else t

/-- R147: a NOTE by the mode of its track. -/
def dispatchNote (e : QueueEntry) (s : State) : State :=
  match s.play.tracks[e.track] with
  | .sound => soundNote e s
  | .guide => guideNote e s
  | .mute => s

/-- R148: a RELEASE. -/
def dispatchRelease (e : QueueEntry) (s : State) : State :=
  let key := keyOfId e.id
  let t := releaseVoice .playback key s
  { t with play.held := t.play.held.set key.val false key.isLt }

/-- R149: END. -/
def dispatchEnd (s : State) : State :=
  endPlayback .fin { s with play.anchor := none }

/-- R147 to R149: one event, after its entry has left the queue. -/
def dispatchEvent (e : QueueEntry) (s : State) : State :=
  match e.kind with
  | .note => dispatchNote e s
  | .release => dispatchRelease e s
  | .pedal => playbackPedal e.id e.value s
  | .mark => dispatchMark e s
  | .fin => dispatchEnd s

/-- R146: the states in which PBC dispatches. -/
def PlayState.dispatches : PlayState → Bool
  | .playing | .waiting => true
  | .stopped | .seeking | .stalled | .paused | .ended => false

/-- R146 step 3: at most so many dispatches; true comes back while a dispatch may still follow: one that changes the state ends the step. -/
def dispatchMany : Nat → State → Bool × State
  | 0, s => (true, s)
  | n + 1, s =>
    match s.scr.queue with
    | e :: es =>
      if s.play.state.dispatches && e.due ≤ s.play.position then
        let t := resumeReader (dispatchEvent e { s with scr.queue := es })
        if t.play.state = s.play.state then dispatchMany n t else (false, t)
      else (false, s)
    | [] => (false, s)

/-- R113, R138, R146: the audio block, with `before` dispatches made before VCE's and MXO's work. A WAITING reader presents its re-read before PBC's work (log 49). -/
def audioWork (before : Nat) (s : State) : State :=
  let r := dispatchMany before (clockStep (reread s))
  let t := soundBlock r.2
  if r.1 then (dispatchMany t.scr.queue.length t).2 else t

/-! ## Orders (R150 to R155, R162, R164, R168) -/

/-- R151, R152: what START and STOP do alike. -/
def clearPlayback (s : State) : State :=
  let t := resetPlayback (fadePlayback (flush { s with play.seek := none }))
  { t with play := { t.play with prompts := [], held := KeySet.none, anchor := none } }

/-- R151: START. The write of its answer is queued before the read of the first-block offset, so that a region fault of the first read comes after the answer (log 62). -/
def startOrder (seq : Half) (s : State) : State :=
  let t := restartReader (answer .play seq .completed (clearPlayback s))
  setPlay .playing
    { t with play := { t.play with position := 0, remainder := 0, skipped := 0, endCause := .none },
             ord.statusCall := true }

/-- R152: playback stops. -/
def stopPlayback (s : State) : State :=
  let t := clearPlayback s
  setPlay .stopped { t with play.loop := { t.play.loop with armed := false, count := 0 } }

/-- R152: STOP. -/
def stopOrder (seq : Half) (s : State) : State := answer .play seq .completed (stopPlayback s)

/-- R153: PAUSE. -/
def pauseOrder (seq : Half) (s : State) : State :=
  if s.play.state.guides then answer .play seq .completed (setPlay .paused (dropPlayback s))
  else answer .play seq .refusedState s

/-- R154: RESUME. -/
def resumeOrder (seq : Half) (s : State) : State :=
  if s.play.state = .paused then answer .play seq .completed (setPlay .playing s)
  else answer .play seq .refusedState s

/-- Byte `i` of an order's argument (12.2). -/
def argByte (arg : Word) (i : Nat) : Nat := (arg.toNat / 256 ^ i) % 256

/-- R155: TEMPO takes a percentage in the low half of its argument. -/
def tempoOrder (seq : Half) (arg : Word) (s : State) : State :=
  answer .play seq .completed { s with play.tempo := clampTo 25 200 (arg.toNat % 65536) }

/-- R155: the four modes an argument names, if each code is one. -/
def trackModes (arg : Word) : Option (Vector TrackMode 4) :=
  match TrackMode.ofCode (argByte arg 0), TrackMode.ofCode (argByte arg 1), TrackMode.ofCode (argByte arg 2),
    TrackMode.ofCode (argByte arg 3) with
  | some a, some b, some c, some d => some #v[a, b, c, d]
  | _, _, _, _ => none

/-- R155: TRACKS. -/
def tracksOrder (seq : Half) (arg : Word) (s : State) : State :=
  match trackModes arg with
  | some v => answer .play seq .completed { s with play.tracks := v }
  | none => answer .play seq .refusedArgument s

/-- R168: SEEK. -/
def seekOrder (seq : Half) (arg : Word) (s : State) : State :=
  if argByte arg 0 = 0 then answer .play seq .refusedArgument s
  else startSeek (argByte arg 0) (some seq) (dropWork { s with play.seek := none })

/-- R164: the anchor kept by a LOOP for start id `a`. -/
def keptAnchor (a : Nat) (x : Option Anchor) : Option Anchor :=
  match x with
  | some y => if y.markId = a then some y else none
  | none => none

/-- R164, R142: LOOP arms the loop; with no anchor for its start id the status block is refreshed. -/
def armLoop (a b count : Nat) (s : State) : State :=
  let k := keptAnchor a s.play.anchor
  { s with play := { s.play with loop := ⟨a, b, count, true⟩, anchor := k },
           ord.statusCall := s.ord.statusCall || k.isNone }

/-- R164: LOOP. -/
def loopOrder (seq : Half) (arg : Word) (s : State) : State :=
  if argByte arg 2 = 0 then
    answer .play seq .completed
      { s with play := { s.play with loop := { s.play.loop with armed := false, count := 0 }, anchor := none } }
  else if argByte arg 0 = argByte arg 1 ∨ argByte arg 0 = 0 ∨ argByte arg 1 = 0 then
    answer .play seq .refusedArgument s
  else answer .play seq .completed (armLoop (argByte arg 0) (argByte arg 1) (argByte arg 2) s)

/-- R162: the entries a SKIP marks met. -/
def skippable (bound : Nat) (p : Prompt) : Bool := !p.met && p.due ≤ bound

/-- R162: SKIP. -/
def skipOrder (seq : Half) (s : State) : State :=
  if s.play.prompts = [] then answer .play seq .refusedState s
  else
    let bound := s.play.position + leadWindow s
    let marked := s.play.prompts.filter (skippable bound)
    let set := s.play.prompts.map fun p => if skippable bound p then { p with met := true } else p
    answer .play seq .completed (testWaiting
      (handRecords (marked.map fun p => recGuide p.key .skipped 0 s.scanCount)
        { s with play.prompts := dropMet s.play.position set }))

end Sys2Proof.Machine
end

