-- ==== Sys2Proof/Machine/Views.lean ====
section
/-!
DEFINITION. Chapter 4, 4.7, and 10.8: the key view, the status block and their refreshes (ORD).
-/

namespace Sys2Proof.Machine

open Sys2Proof.Config

/-! ## The key view (R64, R65, 12.4) -/

/-- A list of bits as a number, the first the least significant. -/
def bitsOf : List Bool → Nat
  | [] => 0
  | b :: bs => (if b then 1 else 0) + 2 * bitsOf bs

/-- A key view entry (12.4). -/
def viewEntry (state depth velocity : Nat) (disabled noisy sostenuto : Bool) : List Byte :=
  toBytes 1 state ++ [0] ++ toBytes 2 depth ++ toBytes 1 velocity
    ++ toBytes 1 (bitsOf [disabled, noisy, sostenuto]) ++ [0, 0]

/-- R64: the entry of a key. -/
def keyEntry (s : State) (k : Fin 88) : List Byte :=
  let r := s.keys[k]
  viewEntry r.state.code r.sensor.depth (r.lastVelocity.getD 0) (r.cause == .calibration) r.sensor.noisy
    s.live.held[k]

/-- R64: the entry of a pedal. -/
def pedalEntry (s : State) (p : Fin 3) : List Byte :=
  let r := s.pedals[p]
  viewEntry r.mode.code r.sensor.depth 0 (r.mode == .disabled) r.sensor.noisy false

/-- R64: the 91 entries, keys then pedals. -/
def viewEntries (s : State) : List (List Byte) :=
  (List.finRange 88).map (keyEntry s) ++ (List.finRange 3).map (pedalEntry s)

/-- R65: the writes of a view: entry `i` at 0x704 + 8 i. -/
def entryWrites : Nat → List (List Byte) → List OrdAccess
  | _, [] => []
  | i, e :: es => .keyView (offKeyView + 4 + 8 * i) e false :: entryWrites (i + 1) es

/-- R65: a copy of the view for count `n`: the begin word, the entries, the end word (log 56). -/
def viewWrites (n : Word) (s : State) : List OrdAccess :=
  .keyView offKeyView (toBytes 4 n.toNat) false
    :: (entryWrites 0 (viewEntries s) ++ [.keyView (offKeyView + 732) (toBytes 4 n.toNat) true])

/-- R65: the key view is copied and its writes are queued; a refresh that still waited is merged into this one, which carries the latest count. -/
def copyView (n : Word) (s : State) : State :=
  pushOrds (viewWrites n s) { s with ord.viewWriting := true, ord.viewDue := none }

/-- R65: a key view refresh: copied now, or when the one being written is done. -/
def refreshView (n : Word) (s : State) : State :=
  if s.ord.viewWriting then { s with ord.viewDue := some n } else copyView n s

/-- KEY_VIEW_REFRESH: the refresh called for takes its copy (R65). -/
def viewRefreshDue (s : State) : Bool := s.ord.viewDue.isSome && !s.ord.viewWriting

/-- R65: the refresh that waits takes its copy. -/
def takeView (s : State) : State :=
  match s.ord.viewDue with
  | some n => copyView n s
  | none => s

/-! ## The status block (R66, R186, 12.5) -/

/-- A flag as a byte, 1 for set and 0 for clear; 12.5 gives the clip flag and the loop's armed byte no code, and this one is the model's (log 59). -/
def flagByte (b : Bool) : List Byte := toBytes 1 (if b then 1 else 0)

/-- The two page status words (12.1). -/
def pageStatusBytes (p : PageStatus) : List Byte :=
  toBytes 1 p.state.code ++ flagByte p.page ++ toBytes 2 p.stamp.toNat ++ toBytes 1 p.reason.code
    ++ toBytes 1 p.firstBad ++ toBytes 2 p.dropped

/-- 0x204 to 0x21F: run state, page status, page in force, region fault. -/
def statusHead (s : State) : List Byte :=
  flagByte s.running ++ [0, 0, 0] ++ pageStatusBytes s.ord.pageStatus ++ flagByte s.ord.forcePage ++ [0]
    ++ toBytes 2 s.ord.forceStamp.toNat ++ toBytes 1 s.ord.regionFault.region.code ++ [0]
    ++ toBytes 2 s.ord.regionFault.count ++ toBytes 4 s.ord.regionFault.offset ++ [0, 0, 0, 0]

/-- 0x220 to 0x23F: the rail record (R69). -/
def statusRail (r : Rail) : List Byte :=
  toBytes 1 r.state.code ++ toBytes 1 (directionCode r.dir) ++ toBytes 1 r.target.code ++ toBytes 1 r.perm.code
    ++ toBytes 1 r.stop.code ++ toBytes 1 r.fault.code
    ++ toBytes 1 (if r.inputs.lever.level then Target.silent else Target.acoustic).code
    ++ toBytes 1 r.source.code ++ toBytes 2 r.travel ++ toBytes 2 r.pause ++ toBytes 2 r.dwell
    ++ toBytes 2 r.settle ++ toBytes 16 0

/-- The retained block as a word, 0xFFFF_FFFF for none (12.5). -/
def retainedWord (s : State) : Nat := (retained s).getD 0xFFFF_FFFF

/-- 0x240 to 0x25F: the playback record and the retained block (R142, R143). -/
def statusPlay (s : State) : List Byte :=
  let p := s.play
  toBytes 1 p.state.code ++ toBytes 1 p.endCause.code ++ toBytes 2 p.tempo
    ++ p.tracks.toList.flatMap (fun m => toBytes 1 m.code) ++ toBytes 4 p.position
    ++ toBytes 1 p.loop.startId ++ toBytes 1 p.loop.endId ++ toBytes 1 p.loop.count ++ flagByte p.loop.armed
    ++ toBytes 2 p.skipped ++ [0, 0] ++ toBytes 4 (retainedWord s) ++ toBytes 8 0

/-- 0x260 to 0x26F: the calibration status (R43). -/
def statusCapture (c : Capture) : List Byte :=
  toBytes 1 (captureCode c.running) ++ toBytes 1 (captureCode c.lastKind) ++ toBytes 1 (endCauseCode c.lastEnd)
    ++ toBytes 1 c.updated ++ toBytes 1 c.unsteady ++ toBytes 1 c.notPressed ++ [0, 0] ++ toBytes 4 c.scans
    ++ toBytes 4 0

/-- 0x270 to 0x3FB: the voice statistics, the clip count and flag, read marks ignored and the scan count (R116, R124, R59, R2). -/
def statusTail (s : State) : List Byte :=
  toBytes 2 s.stats.starts ++ toBytes 2 s.stats.steals ++ toBytes 2 s.stats.restrikes
    ++ toBytes 2 s.stats.underruns ++ toBytes 2 s.stats.silents ++ [0, 0]
    ++ toBytes 2 s.mixer.clipCount ++ flagByte s.mixer.clip ++ [0]
    ++ toBytes 2 s.jwr.ignored ++ [0, 0] ++ toBytes 4 s.scanCount.toNat ++ toBytes 372 0

/-- The body of the status block, 0x204 to 0x3FB (12.5). -/
def statusBody (s : State) : List Byte :=
  statusHead s ++ statusRail s.rail ++ statusPlay s ++ statusCapture s.cap ++ statusTail s

/-- R66: the writes of the fields of the status block, a word at a time in the order of their offsets (log 56). -/
def fieldWrites (s : State) : List OrdAccess :=
  (List.range 126).map fun i => .status (offStatus + 4 + 4 * i) (((statusBody s).drop (4 * i)).take 4) false

/-- R66: the writes of a status refresh for count `n`: the begin word, the fields, the end word. -/
def statusWrites (n : Word) (s : State) : List OrdAccess :=
  .status offStatus (toBytes 4 n.toNat) false
    :: (fieldWrites s ++ [.status (offStatus + 508) (toBytes 4 n.toNat) true])

/-- R66, R186: the status block is copied and its writes are queued; the refreshes that still waited are merged into this one, which carries the latest count. A 10 ms refresh called for at this same count is one of its own (log 14). -/
def copyStatus (n : Word) (s : State) : State :=
  pushOrds (statusWrites n s)
    { s with ord.statusWriting := true, ord.statusDue := none, ord.statusTick := s.ord.statusTick.filter (· == n) }

/-- Whether a status copy can be taken: none is being written (R66), and the reader has the block that the retained block shows (R142; log 14). -/
def copiesStatus (s : State) : Bool := !s.ord.statusWriting && !awaitsFirst s

/-- R66: a status refresh: copied now, or waiting with this count; the refreshes that wait are one. -/
def refreshStatus (n : Word) (s : State) : State :=
  if !copiesStatus s then { s with ord.statusDue := some n, ord.statusTick := none } else copyStatus n s

/-- R66: the refresh a command called for takes its copy at the command's end, or waits with the scan count of that command (log 14). -/
def callStatus (s : State) : State :=
  if s.ord.statusCall then refreshStatus s.scanCount { s with ord.statusCall := false } else s

/-- STATUS_REFRESH: a refresh that waits may take its copy (R66). -/
def statusRefreshDue (s : State) : Bool :=
  (s.ord.statusTick.isSome || s.ord.statusDue.isSome) && copiesStatus s

/-- R66: the refresh that waits takes its copy; one called for while another was written carries the latest count.
The copy is of this moment (R65, R186), the final refresh of RUN clear among them: where that one had to wait behind a status write it shows what was counted since the stop, clips and underruns for example, and not the counts of the stop, which R66 also asks of it (DESIGN CHOICE, log 65). -/
def takeStatus (s : State) : State :=
  let t := { s with ord.statusTick := none, ord.statusDue := none }
  match s.ord.statusTick, s.ord.statusDue with
  | some n, _ => copyStatus n t
  | none, some n => copyStatus n t
  | none, none => s

end Sys2Proof.Machine
end

