-- ==== Sys2Proof/Machine/Startup.lean ====
section
/-!
DEFINITION. Chapter 11, 11.3 and 11.4: the start sequence and the stop, and what follows the end of an adoption.
-/

namespace Sys2Proof.Machine

open Sys2Proof.Config

/-! ## RUN clear (R192) -/

/-- R192: RUN clear; the final refresh shows STOPPED and is the last one (R66). It is called for here and copied at the end of this command, with the counts as at the stop; where a status block is being written then, it waits, and is copied whole when STATUS_REFRESH takes it, with what was counted since (DESIGN CHOICE, log 65).
JWR takes no more records, and what it holds it deals with all the same: the records (R63), and a read mark or JOURNAL_RESTART that waits among them, which R63 does not name (DESIGN CHOICE, log 64). -/
def runClear (s : State) : State :=
  let t := stopCapture { s with running := false, runBit := false }
  let t := railStop (fadeAll (stopPlayback t))
  { t with mixer.target := 0, jwr.taking := false,
           ord := { t.ord with adoption := { t.ord.adoption with next := false },
                               viewDue := none, statusTick := none, statusDue := none, statusCall := true } }

/-! ## The start sequence (R191) -/

/-- R191: RUN rises; the sequence waits until JWR has dealt with the records of the last run (log 11). -/
def runRises (s : State) : State :=
  { s with runBit := true, areaError := .none, start := .waitJournal }

/-- R191 step 1, once JWR is done: ORD reads the header. -/
def beginStart (s : State) : State :=
  if s.start = .waitJournal ∧ s.jwr.quiet then pushOrd .startHeader { s with start := .header } else s

/-- R191: the start fails. -/
def startFails (e : AreaError) (s : State) : State :=
  { s with runBit := false, areaError := e, start := .none, stopHeld := false }

/-- R195: the test of the control block header. -/
def headerOk (s : State) : Bool :=
  (areaWord s 0).toNat == areaSignature && readField s.store (areaAddr s 4) 2 == layoutVersion

/-- R191 step 1. -/
def takeHeaderWords (s : State) : State :=
  if headerOk s then pushOrd .startRegions { s with start := .regions } else startFails .signature s

/-- R191 step 2, R183. -/
def takeRegions (s : State) : State :=
  let r := regionsAt s.store (areaAddr s offRegions)
  if r.ok s.area.toNat (areaWord s offCapacity).toNat then
    pushOrd .startMask { s with ord.regions := r, start := .mask }
  else startFails .region s

/-- R191 steps 3 and 4, R177: the mask is taken and the summary written; then the selector is read, once no adoption is in flight. -/
def takeStartMask (s : State) : State :=
  let t := queueSummary { s with ord.mask := (areaWord s offMask).setWidth 16 }
  if s.ord.adoption.phase = .idle then pushOrd .startSelector { t with start := .selector }
  else { t with start := .waitAdoption }

/-- R191 step 4: the page the selector names is adopted. -/
def takeStartSelector (s : State) : State :=
  let w := areaWord s offSelector
  startAdoption (selectedPage w) (selectedStamp w) { s with start := .adopting }

/-- R23: the key table at RUN rising. -/
def startKeys (s : State) : Vector KeyRec 88 :=
  Vector.ofFn fun k => startKey s.settings s.cal[keyChannel k] s.raw[keyChannel k]

/-- R30: the pedal records at RUN rising. -/
def startPedals (s : State) : Vector PedalRec 3 :=
  Vector.ofFn fun p => startPedal s.cal[pedalChannel p] s.raw[pedalChannel p]

/-- R23, R30: whether a key or pedal is DISABLED. -/
def anyDisabled (keys : Vector KeyRec 88) (pedals : Vector PedalRec 3) : Bool :=
  keys.toList.any (fun k => k.state == .disabled) || pedals.toList.any (fun p => p.mode == .disabled)

/-- R2, R23, R30: KSC and PDU at RUN rising. -/
def startSensing (s : State) : State :=
  let ks := startKeys s
  let ps := startPedals s
  let t := resetPlayback (evaluateNow .live
    { s with scanCount := 0, keys := ks, pedals := ps, live := takeDepths ps s.live,
             lastZone := damperZone s.settings ps[0].sensor.depth })
  noticeIf (anyDisabled ks ps) .keyFault t

/-- R118, R132, R143, R184: VCE, MXO, PBC and the region fault record at RUN rising. -/
def startSound (s : State) : State :=
  let t := mapVoices Voice.freed s
  { t with stats := ⟨0, 0, 0, 0, 0⟩,
           mixer := { t.mixer with target := t.settings.volume, clipCount := 0 },
           play.skipped := 0,
           ord.regionFault := ⟨.none, 0, 0⟩,
           streams := t.ord.regions.samples }

/-- R191 steps 5 to 7, with the rail inputs at these levels; the key view is copied before the status block (log 58). -/
def runValues (l : Lines) (s : State) : State :=
  let t := startSound (railStart l (startSensing (startJournal { s with lines := l })))
  let t := railRecordNow (handRecord (recRunStart t.ord.forcePage t.ord.forceStamp) t)
  let t := refreshStatus 0 (refreshView 0 { t with running := true, start := .none })
  if s.stopHeld then runClear { t with stopHeld := false } else t

/-! ## The end of an adoption (R179, R182, R191) -/

/-- R179, R182: an adoption has ended; a further one or the start sequence goes on. -/
def adoptionEnded (s : State) : State :=
  let t := { s with ord.adoption := Adoption.reset }
  let t := if s.ord.adoption.next then pushOrd .nextSelector t else t
  if s.start = .waitAdoption then pushOrd .startSelector { t with start := .selector } else t

/-- R180: the page is read and checked. -/
def pageRead (s : State) : State :=
  match pageProblem s.ord.adoption.bytes with
  | some (reason, bad) =>
    let t := adoptionEnded (refusePage reason bad s)
    if s.start = .adopting then startFails .page t else t
  | none => goOn s

/-- R181, R191: the table and map are read and the adoption completes. -/
def adoptionDone (l : Lines) (c : AdoptionChoice) (s : State) : State :=
  let t := adoptionEnded (completeAdoption c s)
  if s.start = .adopting then runValues l t else t

end Sys2Proof.Machine
end

