-- ==== Sys2Proof/Machine/Arbiter.lean ====
section
/-!
DEFINITION. Chapter 10, 10.1, 10.2 and 10.7: ORD's accesses, the store arbiter (STC), and what every command ends with.
An access whose end is a row of the table ends at that command; the others end at a step on an empty queue, or have ended when a command comes whose event only follows them (log 6).
-/

namespace Sys2Proof.Machine

open Sys2Proof.Config

/-! ## Triggers (R173) -/

/-- R173: a watched word is triggered; a trigger that finds its flag set merges with it. -/
def trigger (w : Watched) (s : State) : State :=
  if s.ord.triggers[w.index] then s
  else pushOrd (.trigger w) { s with ord.triggers := s.ord.triggers.set w.index.val true w.index.isLt }

/-- Trigger several words in turn. -/
def triggerAll : List Watched → State → State
  | [], s => s
  | w :: ws, s => triggerAll ws (trigger w s)

/-- R173: the read of a watched word completes and its flag is cleared. -/
def clearTrigger (w : Watched) (s : State) : State :=
  { s with ord.triggers := s.ord.triggers.set w.index.val false w.index.isLt }

/-! ## ORD's accesses (R172) -/

/-- Whether the end of an access is a row of the table (log 6); `withMap` says that the adoption in flight reads its map, `starting` that it belongs to a start sequence. -/
def OrdAccess.hasRow (withMap starting : Bool) : OrdAccess → Bool
  | .answer _ _ _ | .pageStatus _ | .trigger _ | .pageTail | .startMarks => true
  | .calEntry c _ => c == 95
  | .tableEntry i => i == 95 && !withMap && !starting
  | .mapWord i => i == 1143 && !starting
  | .summary | .keyView _ _ _ | .status _ _ _ | .threshold _ | .pageWord _ | .startHeader | .startRegions
  | .startMask | .startSelector | .nextSelector | .firstBlock _ => false

/-- The bytes an access of ORD writes into the work area, with their offset (12.1, 12.4, 12.5); none for a read. -/
def OrdAccess.write (summary : Half) : OrdAccess → Option (Nat × List Byte)
  | .summary => some (offSummary, toBytes 4 summary.toNat)
  | .answer slot seq r => some (answerOffset slot, answerBytes seq r)
  | .pageStatus v => some (offPageStatus, pageStatusBytes v)
  | .calEntry c v => some (offCalTable + 8 * c, calEntryBytes v)
  | .keyView off bytes _ => some (off, bytes)
  | .status off bytes _ => some (off, bytes)
  | .threshold v => some (offThreshold, toBytes 4 v)
  | .trigger _ | .pageWord _ | .pageTail | .tableEntry _ | .mapWord _ | .startHeader | .startRegions
  | .startMask | .startSelector | .startMarks | .nextSelector | .firstBlock _ => none

/-- The store write of an access. -/
def performWrite (a : OrdAccess) (s : State) : State :=
  match a.write s.ord.summary with
  | some (off, bytes) => writeArea off bytes s
  | none => s

/-- What a read of ORD brings, or what follows a write of it, for the accesses whose end is no row. -/
def afterAccess (a : OrdAccess) (s : State) : State :=
  match a with
  | .keyView _ _ last => if last then { s with ord.viewWriting := false } else s
  | .status _ _ last => if last then { s with ord.statusWriting := false } else s
  | .pageWord i => takePageWord i s
  | .tableEntry i => takeTableEntry i s
  | .mapWord i => takeMapWord i s
  | .startHeader => takeHeaderWords s
  | .startRegions => takeRegions s
  | .startMask => takeStartMask s
  | .startSelector => takeStartSelector s
  | .nextSelector => takeNextSelector s
  | .firstBlock serial => takeFirstBlock serial s
  | .summary | .answer _ _ _ | .pageStatus _ | .calEntry _ _ | .threshold _ | .trigger _ | .pageTail
  | .startMarks => s

/-- The end of an access whose end is no row. -/
def performAccess (a : OrdAccess) (s : State) : State := afterAccess a (performWrite a s)

/-! ## The arbiter (R185) -/

/-- R185: whether a requester presents an access. -/
def presents (s : State) : Requester → Bool
  | .sfu => s.burst.isSome
  | .ord => !s.ord.list.isEmpty
  | .jwr => s.jwr.presents
  | .scr => s.scr.read.isSome
  | .link => s.link.request.isSome

/-- R185: the requester that the next grant goes to. -/
def nextGrant (s : State) : Option Requester :=
  if s.link.aged && presents s .link then some .link
  else [Requester.sfu, .ord, .jwr, .scr, .link].find? (presents s)

/-- R185: STC grants an access when none is in progress. -/
def grant (s : State) : State :=
  match s.busy, nextGrant s with
  | none, some r => { s with busy := some r }
  | _, _ => s

/-- What every command ends with: JWR works on its hand (R56), a start sequence that waited for it goes on (log 11), a status refresh called for takes its copy (R66), and the arbiter grants the next access (R185). -/
def finish (s : State) : State := grant (callStatus (beginStart (serveHand s)))

/-! ## The ends of accesses -/

/-- The access of ORD in progress. -/
def ordHead (s : State) : Option OrdAccess :=
  match s.busy, s.ord.list with
  | some .ord, a :: _ => some a
  | _, _ => none

/-- ORD's access in progress leaves the list, and the store is free. -/
def endOrd (s : State) : State := { s with busy := none, ord.list := s.ord.list.tail }

/-- Whether the end of this access is a row of the table, as the state stands. -/
def rowEnds (s : State) (a : OrdAccess) : Bool := a.hasRow s.ord.adoption.mapRead (s.start == .adopting)

/-- ORD's access in progress, if its end is no row of the table. -/
def rowlessHead (s : State) : Option OrdAccess := (ordHead s).filter fun a => !rowEnds s a

/-- The end of ORD's access in progress where it is no row of the table; nothing where there is none (log 6). -/
def passAccess (s : State) : State :=
  match rowlessHead s with
  | some a => finish (performAccess a (endOrd s))
  | none => s

/-- What happens while no command comes: the end of an access without a row, outside a reset (log 1, 6). -/
def idle (s : State) : State := if s.inReset then s else passAccess s

/-- The ends of at most so many accesses without a row. -/
def passMany : Nat → State → State
  | 0, s => s
  | n + 1, s => if (rowlessHead s).isSome then passMany n (passAccess s) else s

/-- The ends of the accesses without a row up to the next access whose end is a row: those in the list, and those they call for, of which a status refresh has the most (log 6). -/
def settle (s : State) : State := passMany (s.ord.list.length + 160) s

/-- The store is free. -/
def endAccess (s : State) : State := { s with busy := none }

/-- Whether ORD's access in progress is the read of this watched word. -/
def readsWatched (w : Watched) (s : State) : Bool :=
  match ordHead s with
  | some (.trigger v) => v == w
  | _ => false

/-- R173: the read of a watched word completes, and the flag is cleared. -/
def takeWatched (w : Watched) (s : State) : State := clearTrigger w (endOrd s)

/-- R175: an answer write completes. -/
def answerDone (s : State) : State :=
  match ordHead s with
  | some (.answer slot seq r) => notice .orderAnswered (performWrite (.answer slot seq r) (endOrd s))
  | _ => s

/-- Whether ORD's access in progress is an answer write. -/
def writesAnswer (s : State) : Bool :=
  match ordHead s with
  | some (.answer _ _ _) => true
  | _ => false

/-- R180, R181: the notice of a page status write. -/
def pageNotice (v : PageStatus) (s : State) : State :=
  match v.state with
  | .adopted => notice .pageAdopted s
  | .refused => notice .pageRefused s
  | .none | .adopting => s

/-- R181: a page status write completes. -/
def pageStatusDone (s : State) : State :=
  match ordHead s with
  | some (.pageStatus v) => pageNotice v (performWrite (.pageStatus v) (endOrd s))
  | _ => s

/-- Whether ORD's access in progress is a page status write. -/
def writesPageStatus (s : State) : Bool :=
  match ordHead s with
  | some (.pageStatus _) => true
  | _ => false

/-- R48: the last calibration table write completes. -/
def calTableDone (s : State) : State :=
  match ordHead s with
  | some (.calEntry c v) => tableWritten (performWrite (.calEntry c v) (endOrd s))
  | _ => s

/-- Whether ORD's access in progress is the last calibration table write. -/
def writesTableEnd (s : State) : Bool :=
  match ordHead s with
  | some (.calEntry c _) => c == 95
  | _ => false

/-- R180: the last read of the page completes. -/
def pageReadDone (s : State) : State := pageRead (endOrd s)

/-- Whether ORD's access in progress is the last read of a page. -/
def readsPageEnd (s : State) : Bool := ordHead s == some .pageTail

/-- R181: the last read of an adoption completes. -/
def adoptionReadDone (l : Lines) (c : AdoptionChoice) (s : State) : State :=
  match ordHead s with
  | some a => adoptionDone l c (afterAccess a (endOrd s))
  | none => s

/-- The reads of an adoption that may be its last (R53, R181). -/
def OrdAccess.endsAdoption : OrdAccess → Bool
  | .tableEntry _ | .mapWord _ | .startMarks => true
  | _ => false

/-- Whether ORD's access in progress is the last read of an adoption. -/
def readsAdoptionEnd (s : State) : Bool := (ordHead s).any fun a => a.endsAdoption && rowEnds s a

end Sys2Proof.Machine
end

