-- ==== Sys2Proof/Machine/Scan.lean ====
section
/-!
DEFINITION. The scan completion (R2), with what each block does at it: KSC, PDU, RLC, VCE, the guide matcher, CAP and JWR, in the orders a scan's choice picks (log 4).
-/

namespace Sys2Proof.Machine

open Sys2Proof.Config

/-! ## What the scan decides -/

/-- R29: the pedal records after the scan. -/
def scanPedals (s : State) : Vector PedalStep 3 :=
  Vector.ofFn fun p => scanPedal s.settings s.cal[pedalChannel p] s.raw[pedalChannel p] s.pedals[p]

/-- R39: the LIVE soft depth after the scan. -/
def softAfter (ps : Vector PedalRec 3) (s : State) : Nat := (takeDepths ps s.live).soft

/-- R9: the key table after the scan, with LIVE soft depth `u`. -/
def scanKeys (u : Nat) (s : State) : Vector KeyStep 88 :=
  Vector.ofFn fun k =>
    scanKey s.settings s.cal[keyChannel k] s.scanCount k u s.raw[keyChannel k] s.keys[k]

/-! ## The blocks' parts -/

/-- VCE takes a live key event (R21, R22). -/
def deliver (e : KeyEvent) (s : State) : State :=
  match e.kind with
  | .on v _ => startRequest .live e.key v s
  | .off _ => releaseVoice .live e.key s

/-- R29, R36, R37: the LIVE context takes the depths and is evaluated; a rise takes `rise`, a fall hands over `fall`; nothing is handed while every pedal is FROZEN. -/
def liveContext (rise fall : KeySet) (s : State) : State :=
  if allFrozen s.pedals then s
  else evaluateContext .live rise fall { s with live := takeDepths s.pedals s.live }

/-- R36: the keys a rise takes: those of `old` for the keys chosen, of `new` for the others. -/
def mixKeys (chosen : List Nat) (old new : KeySet) : KeySet :=
  Vector.ofFn fun k => if chosen.contains k.val then old[k] else new[k]

/-- R107: the keys note-on at a fall, when these events are still to be delivered. -/
def fallKeys (left : List KeyEvent) (old new : KeySet) : KeySet :=
  Vector.ofFn fun k => if left.any (fun e => e.key == k) then old[k] else new[k]

/-- The scan's events as VCE takes them, with the LIVE context evaluated before event number `contextAt` and RLC's work done before event number `railAt` (R36, R99, R107). -/
def takeLive (context : List KeyEvent → State → State) (rail : State → State) (contextAt railAt : Nat) :
    Nat → List KeyEvent → State → State
  | i, [], s =>
    let t := if i ≤ contextAt then context [] s else s
    if i ≤ railAt then rail t else t
  | i, e :: es, s =>
    let t := if i = contextAt then context (e :: es) s else s
    let t := if i = railAt then rail t else t
    takeLive context rail contextAt railAt (i + 1) es (deliver e t)

/-- The guide matcher takes the scan's strikes (R160). -/
def takeStrikes : List KeyEvent → State → State
  | [], s => s
  | e :: es, s =>
    match e.kind with
    | .on v _ => takeStrikes es (guideStrike e.key v s)
    | .off _ => takeStrikes es s

/-- R71: RLC takes the scan's NOTE_ONs. -/
def settleStrikes (events : List KeyEvent) (s : State) : State :=
  if events.any KeyEvent.isOn then restartSettle s else s

/-- R65, R66: the 10 ms refreshes are called for, where the choice has not taken their copies already. -/
def callRefreshes (c : ScanChoice) (n : Word) (s : State) : State :=
  { s with ord := { s.ord with
      viewDue := if c.viewFirst then s.ord.viewDue else some n,
      statusTick := if c.statusFirst then s.ord.statusTick else some n,
      statusDue := if c.statusFirst then s.ord.statusDue else none } }

/-- R65, R66: the copies that are taken before the scan completion, the key view's first (log 58). -/
def earlyCopies (c : ScanChoice) (n : Word) (s : State) : State :=
  let t := if c.viewFirst then refreshView n s else s
  if c.statusFirst then refreshStatus n t else t

/-- R65: a scan count at which the views are refreshed. -/
def isRefresh (n : Word) : Bool := n.toNat % 80 == 0

/-- The copies that the choice of scan completion `n` takes before it: they carry its count in their begin and end words (R66) and show nothing of it, its count in the status block's body included, since one event's fields show together or not at all (R186). -/
def copiesBefore (c : ScanChoice) (n : Word) (s : State) : State := if isRefresh n then earlyCopies c n s else s

/-- R2: the work of the blocks at a scan completion of the run; the scan count has its new value. -/
def runScan (x : Scan) (s : State) : State :=
  let c := x.choice
  let n := s.scanCount
  let old := s.jwr.hand.length
  let oldKeys := s.keys
  let ps := scanPedals s
  let ks := scanKeys (softAfter (pedalsOf ps) s) s
  let events := eventsOf ks
  let rise := mixKeys c.riseOld (liveNoteOn oldKeys) (liveNoteOn (keysOf ks))
  let fall := fun left => fallKeys left (liveNoteOn oldKeys) (liveNoteOn (keysOf ks))
  let rail := railScan x.lines (keysOf ks) (events.any KeyEvent.isOn)
  let t := if c.railFirst then railScan x.lines oldKeys false s else s
  let t := settleStrikes events
    (noticeIf (faultOf ks || pedalFault ps) .keyFault { t with keys := keysOf ks, pedals := pedalsOf ps })
  let t := handRecords (events.map (KeyEvent.record n)) t
  let t := takeLive (fun left => liveContext rise (fall left))
    (if c.railFirst || c.railAfterCapture then id else rail) c.contextAt c.railAt 0
    (permuteBy c.voiceOrder events) t
  let t := takeStrikes (permuteBy c.guideOrder events) (decidePedals n t)
  let t := captureScan t
  let t := if c.railAfterCapture && !c.railFirst then rail t else t
  let t := reorderHand old c.journalOrder t
  if isRefresh n then callRefreshes c n t else t

/-- R1: the raw values of a scan are current, and the next scan begins at multiplexer position 0. -/
def scanValues (x : Scan) (s : State) : State :=
  { s with raw := scanRaw x.conv, lines := x.lines, muxAddress := 0 }

/-- R1, R2: a scan completion. -/
def scanWork (x : Scan) (s : State) : State :=
  let t := scanValues x s
  let n := t.scanCount + 1
  if t.running then runScan x { copiesBefore x.choice n t with scanCount := n } else t

/-! ## The special scan completions (log 2) -/

/-- R45: this scan completes a rest capture. -/
def completesRest (s : State) : Bool :=
  s.running && s.cap.running == some .rest && restScans ≤ s.cap.scans + 1

/-- R46: this scan expires a bottom capture. -/
def expiresBottom (s : State) : Bool :=
  s.running && s.cap.running == some .bottom && bottomScans ≤ s.cap.scans + 1

/-- R86: this scan is a rail tick. -/
def isRailTick (s : State) : Bool := s.running && isTick (s.scanCount + 1)

/-- R71: the settle countdown has reached 0 at this scan: by its decrement where RLC's evaluation came before KSC's work, whatever a NOTE_ON then makes of it, or as the scan has left it. -/
def settled (x : Scan) (s t : State) : Bool :=
  s.running && 0 < s.rail.settle && ((x.choice.railFirst && s.rail.settle == 1) || t.rail.settle == 0)

/-- R68: an input's filtered level has changed. -/
def filterChanged (i : RailInput) (s t : State) : Bool :=
  isRailTick s && (s.rail.inputs.get i).level != (t.rail.inputs.get i).level

/-- R83: the rail has stalled at its travel limit. -/
def stalledByTravel (s t : State) : Bool :=
  isRailTick s && s.rail.state != .stalled && t.rail.state == .stalled && t.rail.fault == .travel

/-- R81: a move has ended short at its hold limit. -/
def endedByHold (s t : State) : Bool :=
  isRailTick s && s.rail.state.moving && !t.rail.state.moving && t.rail.stop == .pauseLimit

/-- R77: the dwell has ended. -/
def dwellEnded (s t : State) : Bool :=
  isRailTick s && s.rail.state == .reversing
    && (t.rail.state == .engaging || t.rail.state == .releasing || t.rail.state == .paused)

end Sys2Proof.Machine
end

