-- ==== Sys2Proof/Machine/CmdScan.lean ====
section
/-!
DEFINITION. The commands of the scan clock and of the audio clock, and the refreshes they call for.
Every command but the resets does nothing while a reset lasts (R193; log 35), and a command whose event cannot happen in a state changes nothing (log 3).
-/

namespace Sys2Proof.Machine

/-- The outcome of a command whose event happens when `enabled` holds: its effect, and then what every command ends with. -/
def act (enabled : Bool) (f : State → State) (s : State) : Host.Outcome State Fault Refusal :=
  .next (if !s.inReset && enabled then finish (f s) else s)

/-- The outcome of a command whose event can only happen once the accesses without a row that stand before it have ended: they have ended by then (log 6). -/
def whenDone (enabled : State → Bool) (f : State → State) (s : State) : Host.Outcome State Fault Refusal :=
  .next (if s.inReset then s
    else if enabled s then finish (f s)
    else if enabled (settle s) then finish (f (settle s))
    else s)

/-- SCAN_COMPLETION (R2). -/
def execScanCompletion (x : Scan) (s : State) : Host.Outcome State Fault Refusal := act true (scanWork x) s

/-- REST_CAPTURE_COMPLETE (R45, R48). -/
def execRestCaptureComplete (x : Scan) (s : State) : Host.Outcome State Fault Refusal :=
  act (completesRest s) (scanWork x) s

/-- BOTTOM_CAPTURE_EXPIRED (R46, R48). -/
def execBottomCaptureExpired (x : Scan) (s : State) : Host.Outcome State Fault Refusal :=
  act (expiresBottom s) (scanWork x) s

/-- SETTLE_COUNTDOWN_EXPIRY (R71). -/
def execSettleCountdownExpiry (x : Scan) (s : State) : Host.Outcome State Fault Refusal :=
  act (settled x s (scanWork x s)) (scanWork x) s

/-- RAIL_TICK (R86). -/
def execRailTick (x : Scan) (s : State) : Host.Outcome State Fault Refusal :=
  act (isRailTick s) (scanWork x) s

/-- INPUT_FILTER_CHANGE (R68). -/
def execInputFilterChange (i : RailInput) (x : Scan) (s : State) : Host.Outcome State Fault Refusal :=
  act (filterChanged i s (scanWork x s)) (scanWork x) s

/-- TRAVEL_LIMIT_STALL (R83). -/
def execTravelLimitStall (x : Scan) (s : State) : Host.Outcome State Fault Refusal :=
  act (stalledByTravel s (scanWork x s)) (scanWork x) s

/-- HOLD_LIMIT_EXPIRY (R81). -/
def execHoldLimitExpiry (x : Scan) (s : State) : Host.Outcome State Fault Refusal :=
  act (endedByHold s (scanWork x s)) (scanWork x) s

/-- REVERSAL_DWELL_END (R77). -/
def execReversalDwellEnd (x : Scan) (s : State) : Host.Outcome State Fault Refusal :=
  act (dwellEnded s (scanWork x s)) (scanWork x) s

/-- KEY_VIEW_REFRESH (R65). -/
def execKeyViewRefresh (s : State) : Host.Outcome State Fault Refusal := whenDone viewRefreshDue takeView s

/-- STATUS_REFRESH (R66). -/
def execStatusRefresh (s : State) : Host.Outcome State Fault Refusal := whenDone statusRefreshDue takeStatus s

/-- AUDIO_BLOCK (R113, R146). -/
def execAudioBlock (before : Nat) (s : State) : Host.Outcome State Fault Refusal :=
  act true (audioWork before) s

end Sys2Proof.Machine
end

