-- ==== Sys2Proof/Machine/Link.lean ====
section
/-!
DEFINITION. Chapter 11, 11.1, 11.2 and 11.5: the link port (LNK), the registers and the resets.
-/

namespace Sys2Proof.Machine

open Sys2Proof.Config

/-! ## Resets (R193) -/

/-- The store write in progress: its address and bytes. -/
def writeInProgress (s : State) : Option (Nat × List Byte) :=
  match s.busy with
  | some .ord =>
    match s.ord.list with
    | a :: _ => (a.write s.ord.summary).map fun p => (areaAddr s p.1, p.2)
    | [] => none
  | some .jwr =>
    match s.jwr.op with
    | .writing r _ _ _ => some (s.ord.regions.journal.base + s.jwr.slotOffset s.jwr.w, r.bytes)
    | .marking _ _ => some (areaAddr s offWriteMark, toBytes 4 s.jwr.w.toNat)
    | .restartWrite _ | .startWrite => some (areaAddr s offWriteMark, toBytes 4 0)
    | .restartRead _ | .startRead => some (areaAddr s offReadMark, toBytes 4 0)
    | .idle => none
  | some .link =>
    match s.link.request with
    | some r => r.data.map fun w => (r.addr, toBytes 4 w.toNat)
    | none => none
  | some .sfu | some .scr | none => none

/-- R50, R56: a calibration entry and a journal record are new or old as a whole after a reset. -/
def writesWhole (s : State) : Bool :=
  match s.busy with
  | some .ord =>
    match s.ord.list with
    | .calEntry _ _ :: _ => true
    | _ => false
  | some .jwr =>
    match s.jwr.op with
    | .writing _ _ _ _ => true
    | _ => false
  | some .sfu | some .scr | some .link | none => false

/-- How many bytes of a write in progress have landed where `landed` words of it have (log 16). -/
def landedBytes (whole : Bool) (landed : Nat) (bytes : List Byte) : List Byte :=
  if whole then if 0 < landed then bytes else [] else bytes.take (4 * landed)

/-- R193: the store after a reset abandons the access in progress: of a write under way the first `landed` words hold their new value and the others their old one; a calibration entry (R50) and a journal record (R56) are new where `landed` is not 0 (log 16). -/
def abandonedStore (landed : Nat) (s : State) : Memory :=
  match writeInProgress s with
  | some (a, bytes) => writeBytes s.store a (landedBytes (writesWhole s) landed bytes)
  | none => s.store

/-- R193: every block's state takes its reset values; what a reset keeps is given. The reset lasts until RESET_END. -/
def resetTo (store : Memory) (area : Word) (bank : BitVec 2) (mode : LinkMode) (s : State) : State :=
  { State.reset with
      pending := s.pending, inReset := true, store := store, area := area, lines := s.lines,
      rail := Rail.reset s.lines, link := { Link.reset with bank := bank, mode := mode } }

/-- A transaction that is open at a reset is ignored until LSEL rises (R193). -/
def ignoredMode (m : LinkMode) : LinkMode := if m = .closed then .closed else .ignoring

/-- R193: power-on; the store reads as an unwritten one (log 7). -/
def powerOn (s : State) : State := resetTo [] 0 0 (ignoredMode s.link.mode) s

/-- R193: RESET goes low. -/
def resetByLine (landed : Nat) (s : State) : State :=
  resetTo (abandonedStore landed s) 0 0 (ignoredMode s.link.mode) s

/-- R193: SOFT_RESET, at the rise of LSEL. -/
def softReset (landed : Nat) (s : State) : State :=
  resetTo (abandonedStore landed s) s.area s.link.bank .closed s

/-- R193, R93: the reset ends with the rail inputs at these levels. -/
def endReset (l : Lines) (s : State) : State :=
  { s with inReset := false, lines := l, rail := Rail.reset l, link.mode := ignoredMode s.link.mode }

/-! ## Registers (R190, R196) -/

/-- IDENT (R196). -/
def identValue : Word := 0x4E01_0588

/-- A value as AREA takes it (R190). -/
def areaValue (v : Word) : Word := v &&& 0x03FF_C000

/-- CONTROL as read (R190). -/
def controlValue (s : State) : Word := if s.runBit then 1 else 0

/-- STATE as read (R190, R196). -/
def stateValue (s : State) : Word :=
  (if s.running then 1 else 0) ||| (BitVec.ofNat 32 s.areaError.code <<< 8)
    ||| (s.ord.forceStamp.setWidth 32 <<< 16)

/-- R190: a register as read. -/
def registerValue (r : Byte) (s : State) : Word :=
  if r = 0x00 then identValue
  else if r = 0x04 then s.area
  else if r = 0x08 then controlValue s
  else if r = 0x0C then stateValue s
  else 0

/-- R190: AREA is taken while the part is not running and no start sequence is in flight. -/
def writeAreaRegister (v : Word) (s : State) : State :=
  if s.running = false ∧ s.start = .none then { s with area := areaValue v } else s

/-- R191: a CONTROL write with RUN 1. -/
def controlRun (s : State) : State :=
  if s.running = false ∧ s.start = .none then runRises s else s

/-- R191, R192: a CONTROL write with RUN 0. -/
def controlStop (s : State) : State :=
  if s.running then runClear s
  else if s.start = .none then s
  else { s with stopHeld := true }

/-- R190 to R193: a CONTROL write; SOFT_RESET waits for LSEL to rise, and a RUN bit beside it is not taken. -/
def writeControl (v : Word) (s : State) : State :=
  if v.getLsbD 1 then { s with link.mode := .resetting }
  else if v.getLsbD 0 then controlRun s
  else controlStop s

/-- R190: a register write. -/
def writeRegister (r : Byte) (v : Word) (s : State) : State :=
  if r = 0x04 then writeAreaRegister v s
  else if r = 0x08 then writeControl v s
  else s

/-! ## Transactions (R187 to R189) -/

/-- The port can take a transaction with this command byte: LSEL is high, and no word of an earlier transaction waits, or the transaction is one of a register, which does not wait on LRDY (R190; log 17, 44). -/
def takesCommand (code : Byte) (s : State) : Bool :=
  s.link.mode == .closed && (s.link.request.isNone || code == 0x31 || code == 0x32)

/-- R187: a transaction opens. -/
def openLink (m : LinkMode) (s : State) : State :=
  { s with link := { s.link with mode := m, toWrite := [], toRead := 0, out := [], written := [] } }

/-- R187: LSEL falls on a port that a reset holds, and the transaction is ignored (R193). -/
def openInReset (s : State) : State := if s.link.mode = .closed then openLink .ignoring s else s

/-- R188: the store address of a transaction's word: the bank and the 24-bit address, without its two low bits. -/
def linkAddr (l : Link) : Nat := l.bank.toNat * 0x100_0000 + l.addr.toNat / 4 * 4

/-- R188: a word is presented to the arbiter. -/
def presentWord (data : Option Word) (s : State) : State :=
  { s with link := { s.link with request := some ⟨linkAddr s.link, data, false⟩, waited := 0 } }

/-- R188: the next word of a STORE_WRITE is presented once its fourth byte is clocked in. -/
def presentWrite (s : State) : State :=
  if 8 ≤ s.link.toWrite.length then
    presentWord (some (BitVec.ofNat 32 (ofBytes (bytesOfNibbles (s.link.toWrite.take 8)))))
      { s with link.toWrite := s.link.toWrite.drop 8 }
  else s

/-- The address six nibbles give (R187). -/
def linkAddress (sent : List Nib) : BitVec 24 := BitVec.ofNat 24 (ofBytesBig (bytesOfNibbles (sent.take 6)))

/-- R188: STORE_READ; with its address incomplete it makes no access (R187). -/
def storeRead (sent : List Nib) (bytes : Nat) (s : State) : State :=
  if 6 ≤ sent.length then
    presentWord none { (openLink .reading s) with
      link := { (openLink .reading s).link with addr := linkAddress sent, toRead := bytes } }
  else openLink .ignoring s

/-- R188: STORE_WRITE; with its address incomplete it makes no access (R187). -/
def storeWrite (sent : List Nib) (s : State) : State :=
  if 6 ≤ sent.length then
    presentWrite { (openLink .writing s) with
      link := { (openLink .writing s).link with addr := linkAddress sent, toWrite := sent.drop 6 } }
  else openLink .ignoring s

/-- R188: the next word's address, wrapped within the bank. -/
def nextAddress (a : BitVec 24) : BitVec 24 := a + 4

/-- R188: a word read is driven as far as the host clocks it, and after its fourth byte the next is read. -/
def driveWord (w : Word) (s : State) : State :=
  let n := min 4 s.link.toRead
  let t := { s with link := { s.link with out := s.link.out ++ nibblesOf ((toBytes 4 w.toNat).take n),
                                          toRead := s.link.toRead - n,
                                          addr := nextAddress s.link.addr } }
  if n = 4 then presentWord none t else t

/-- R188: a store write of the link has completed; the triggers held back for it are made (R189). -/
def wordWritten (addr : Nat) (s : State) : State :=
  let t := { s with link := { s.link with written := s.link.written ++ [addr],
                                          addr := nextAddress s.link.addr, deferred := [] } }
  presentWrite (triggerAll s.link.deferred t)

/-- R188: the link's access ends. -/
def linkAccessDone (s : State) : State :=
  match s.link.request with
  | some r =>
    let t := { (endAccess s) with link := { s.link with request := none, waited := 0 } }
    match r.data with
    | some w => wordWritten r.addr { t with store := writeWord s.store r.addr w }
    | none => if r.dead then t else driveWord (readWord s.store r.addr) t
  | none => s

/-- R189: the store words of a watched word. -/
def watchedAddrs (s : State) (w : Watched) : List Nat :=
  if w.size = 8 then [areaAddr s w.offset, areaAddr s w.offset + 4] else [areaAddr s w.offset]

/-- R189: the watched words among the words a STORE_WRITE wrote.
The rules give no order among the reads that ORD then queues (R173); that they are queued in ascending offset is the model's choice (DESIGN CHOICE, log 54). -/
def watchedAmong (s : State) (words : List Nat) : List Watched :=
  Watched.all.filter fun w => (watchedAddrs s w).any fun a => words.contains a

/-- R189: the words that a transaction wrote, with the one that still waits for its store write. -/
def wordsWritten (l : Link) : List Nat :=
  match l.request with
  | some r => l.written ++ [r.addr]
  | none => l.written

/-- R185, R189: LSEL rises and the transaction is over. -/
def closeLink (s : State) : State :=
  { s with link := { s.link with mode := .closed, toWrite := [], toRead := 0, out := [], written := [],
                                 aged := false } }

/-- R189: LSEL rises on a STORE_WRITE. -/
def closeWrite (s : State) : State :=
  let hits := watchedAmong s (wordsWritten s.link)
  if s.link.request.isSome then { (closeLink s) with link := { (closeLink s).link with deferred := hits } }
  else triggerAll hits (closeLink s)

/-- R188: LSEL rises on a STORE_READ; a read in flight completes and its data are discarded. -/
def closeRead (s : State) : State :=
  let t := closeLink s
  { t with link.request := s.link.request.map fun r => { r with dead := true } }

/-- R187, R189, R193: LSEL rises. -/
def raiseLsel (landed : Nat) (s : State) : State :=
  match s.link.mode with
  | .writing => closeWrite s
  | .reading => closeRead s
  | .resetting => softReset landed s
  | .closed | .ignoring | .register => closeLink s

/-- R187: BANK_SET. -/
def setBank (sent : List Nib) (s : State) : State :=
  let t := openLink .register s
  match bytesOfNibbles (sent.take 2) with
  | [b] => if b.toNat ≤ 3 then { t with link.bank := b.setWidth 2 } else t
  | _ => t

/-- R190: REG_READ drives the register's value. -/
def readRegister (sent : List Nib) (s : State) : State :=
  let t := openLink .register s
  match bytesOfNibbles (sent.take 2) with
  | [r] => { t with link.out := nibblesOf (toBytes 4 (registerValue r s).toNat) }
  | _ => t

/-- The nibbles of a REG_WRITE of a register with a value (R187, R190). -/
def registerNibbles (r : Byte) (v : Word) : List Nib := nibblesOf (r :: toBytes 4 v.toNat)

/-- R190: REG_WRITE acts when its fourth data byte has been clocked in. -/
def regWrite (sent : List Nib) (s : State) : State :=
  let t := openLink .register s
  match bytesOfNibbles (sent.take 10) with
  | [r, a, b, c, d] => writeRegister r (BitVec.ofNat 32 (ofBytes [a, b, c, d])) t
  | _ => t

/-- R187: the command byte picks the transaction, and an unknown one makes the port ignore the rest. -/
def openByCode (code : Byte) (sent : List Nib) (bytes : Nat) (s : State) : State :=
  if code = 0x21 then storeRead sent bytes s
  else if code = 0x22 then storeWrite sent s
  else if code = 0x31 then readRegister sent s
  else if code = 0x32 then regWrite sent s
  else if code = 0x41 then setBank sent s
  else openLink .ignoring s

/-- R185: a link request that waits counts the audio frames. -/
def countFrame (s : State) : State :=
  if s.link.request.isSome && s.busy != some .link then { s with link.waited := s.link.waited + 1 } else s

/-- Whether the open transaction is one of the store. -/
def LinkMode.ofStore : LinkMode → Bool
  | .reading | .writing => true
  | .closed | .ignoring | .register | .resetting => false

/-- R185: the link port becomes aged: its request has waited 64 audio frames and its transaction is open (log 18). -/
def ages (s : State) : Bool :=
  s.link.request.isSome && s.busy != some .link && 64 ≤ s.link.waited && s.link.mode.ofStore && !s.link.aged

end Sys2Proof.Machine
end

