-- ==== Sys2Proof/Machine/Flags.lean ====
section
/-!
DEFINITION. The output lines of the part as functions of its state (11, Pins): what a board sees at each moment.
-/

namespace Sys2Proof.Machine

/-- R67: MOTOR_IN is asserted in ENGAGING. -/
def motorIn (s : State) : Bool := s.rail.state == .engaging

/-- R67: MOTOR_OUT is asserted in RELEASING. -/
def motorOut (s : State) : Bool := s.rail.state == .releasing

/-- R177: ATTN is asserted while the summary and the mask have a bit in common. -/
def attn (s : State) : Bool := s.ord.summary &&& s.ord.mask != 0

/-- R127: HPMUTE. -/
def hpmute (s : State) : Bool := s.phones.mute

/-- R187, R188: LRDY is low while a word waits for the store, unless a register transaction is open, which does not wait on it (R190; log 44).
The rules do not give its level while a reset lasts; that it is high then is the model's choice (DESIGN CHOICE, log 55). -/
def lrdy (s : State) : Bool :=
  s.inReset || s.link.request.isNone || s.link.mode == .register || s.link.mode == .resetting

/-- R187: the nibbles that the port drives on LD3 to LD0, in order; it leaves the lines undriven while LSEL is high, and in a reset it ignores the link (R193). -/
def ld (s : State) : List Nib := if s.inReset || s.link.mode == .closed then [] else s.link.out

/-- R129, R131, R193: ABCLK in the first or the second half of each bit clock, which begins with its falling edge; it runs from the end of a reset on and is held low in a reset. -/
def abclk (s : State) (secondHalf : Bool) : Bool := !s.inReset && secondHalf

/-- R1: MUXA3 to MUXA0. -/
def muxa (s : State) : BitVec 4 := s.muxAddress

/-- R130, R131: AFRM at bit clock `k` of the frame under way. -/
def afrm (s : State) (k : Nat) : Bool :=
  !s.inReset && (match s.phones.framing with
    | .framed => decide (k ≤ 31)
    | .pulsed => k == 0)

/-- R129, R131: ADAT at bit clock `k` of the frame under way. -/
def adat (s : State) (k : Nat) : Bool :=
  !s.inReset &&
    (if k ≤ 15 then s.phones.current.1.getLsbD (15 - k)
     else if 32 ≤ k ∧ k ≤ 47 then s.phones.current.2.getLsbD (47 - k)
     else false)

end Sys2Proof.Machine
end

