-- ==== Sys2Proof/Machine/CmdLink.lean ====
section
/-!
DEFINITION. The commands of the host link, of the resets, and the start of an output frame.
-/

namespace Sys2Proof.Machine

/-- The outcome of a transaction with this command byte, the nibbles the host clocks after it and the number of bytes it reads: ignored in a reset (R193), and nothing where the port cannot take it (log 17, 44). -/
def transact (code : Byte) (sent : List Nib) (bytes : Nat) (s : State) : Host.Outcome State Fault Refusal :=
  .next (if s.inReset then openInReset s
    else if takesCommand code s then finish (openByCode code sent bytes s) else s)

/-- LINK_STORE_READ (R188). -/
def execLinkStoreRead (sent : List Nib) (bytes : Nat) (s : State) : Host.Outcome State Fault Refusal :=
  transact 0x21 sent bytes s

/-- LINK_STORE_WRITE (R188). -/
def execLinkStoreWrite (sent : List Nib) (s : State) : Host.Outcome State Fault Refusal :=
  transact 0x22 sent 0 s

/-- BANK_SET (R187). -/
def execBankSet (sent : List Nib) (s : State) : Host.Outcome State Fault Refusal := transact 0x41 sent 0 s

/-- REG_READ (R190). -/
def execRegRead (sent : List Nib) (s : State) : Host.Outcome State Fault Refusal :=
  transact 0x31 sent 0 s

/-- UNKNOWN_COMMAND (R187): a transaction of which only the command byte is clocked. -/
def execUnknownCommand (code : Byte) (s : State) : Host.Outcome State Fault Refusal :=
  transact code [] 0 s

/-- AREA_WRITE (R190). -/
def execAreaWrite (value : Word) (s : State) : Host.Outcome State Fault Refusal :=
  transact 0x32 (registerNibbles 0x04 value) 0 s

/-- REG_WRITE (R190). -/
def execRegWrite (sent : List Nib) (s : State) : Host.Outcome State Fault Refusal :=
  transact 0x32 sent 0 s

/-- RUN_RISING (R191). -/
def execRunRising (s : State) : Host.Outcome State Fault Refusal :=
  transact 0x32 (registerNibbles 0x08 1) 0 s

/-- RUN_CLEAR (R192). -/
def execRunClear (s : State) : Host.Outcome State Fault Refusal :=
  transact 0x32 (registerNibbles 0x08 0) 0 s

/-- LSEL_RISE (R189): a rise on a port whose LSEL is high is no event. -/
def execLselRise (landed : Nat) (s : State) : Host.Outcome State Fault Refusal :=
  .next (if s.link.mode = .closed then s
    else if (raiseLsel landed s).inReset then raiseLsel landed s else finish (raiseLsel landed s))

/-- LINK_AGED (R185). -/
def execLinkAged (s : State) : Host.Outcome State Fault Refusal :=
  act (ages s) (fun s => { s with link.aged := true }) s

/-- SOFT_RESET (R193): the CONTROL write and the rise of LSEL that closes it (log 33). -/
def execSoftReset (landed : Nat) (s : State) : Host.Outcome State Fault Refusal :=
  .next (if !s.inReset && takesCommand 0x32 s then softReset landed s else s)

/-- POWER_ON (R193). -/
def execPowerOn (s : State) : Host.Outcome State Fault Refusal := .next (powerOn s)

/-- RESET_LINE (R193). -/
def execResetLine (landed : Nat) (s : State) : Host.Outcome State Fault Refusal :=
  .next (resetByLine landed s)

/-- RESET_END (R193). -/
def execResetEnd (l : Lines) (s : State) : Host.Outcome State Fault Refusal :=
  .next (if s.inReset then endReset l s else s)

/-- OUTPUT_FRAME_START (R128, R130), which is also the audio frame that a waiting link request counts (R185). -/
def execOutputFrameStart (s : State) : Host.Outcome State Fault Refusal :=
  act true (fun s => countFrame (frameStart s)) s

end Sys2Proof.Machine
end

