-- ==== Sys2Proof/Machine/Orders.lean ====
section
/-!
DEFINITION. Chapter 10, 10.3: taking an order (R174), whatever its slot.
-/

namespace Sys2Proof.Machine

/-- R174: while RUN is clear every order is answered REFUSED_STATE and changes nothing; while it is set the owning block acts. -/
def whenRunning (slot : Slot) (seq : Half) (f : State → State) (s : State) : State :=
  if s.running then f s else answer slot seq .refusedState s

/-- The RAIL slot's orders (12.2). -/
def railSlot (code : Nat) (seq : Half) (s : State) : State :=
  match code with
  | 1 => moveOrder .silent seq s
  | 2 => moveOrder .acoustic seq s
  | 3 => permissionOrder .free seq s
  | 4 => permissionOrder .held seq s
  | 5 => permissionOrder .pinned seq s
  | 6 => clearFaultOrder seq s
  | _ => answer .rail seq .unknownOrder s

/-- The PLAY slot's orders (12.2). -/
def playSlot (code : Nat) (seq : Half) (arg : Word) (s : State) : State :=
  match code with
  | 1 => startOrder seq s
  | 2 => stopOrder seq s
  | 3 => pauseOrder seq s
  | 4 => resumeOrder seq s
  | 5 => tempoOrder seq arg s
  | 6 => tracksOrder seq arg s
  | 7 => seekOrder seq arg s
  | 8 => loopOrder seq arg s
  | 9 => skipOrder seq s
  | _ => answer .play seq .unknownOrder s

/-- The CAL slot's orders (12.2). -/
def calSlot (code : Nat) (seq : Half) (order : List Nat) (s : State) : State :=
  match code with
  | 1 => captureOrder .rest seq order s
  | 2 => captureOrder .bottom seq order s
  | 3 => endOrder seq s
  | 4 => abandonOrder seq s
  | _ => answer .cal seq .unknownOrder s

/-- The JOURNAL slot's orders (12.2). -/
def journalSlot (code : Nat) (seq : Half) (arg : Word) (s : State) : State :=
  match code with
  | 1 => markOrder seq arg s
  | 2 => restartOrder seq s
  | _ => answer .journal seq .unknownOrder s

/-- R174: the order's block acts on it. -/
def ownerActs (slot : Slot) (order : List Nat) (w : OrderWord) (s : State) : State :=
  match slot with
  | .rail => railSlot w.code.toNat w.seq s
  | .play => playSlot w.code.toNat w.seq w.arg s
  | .cal => calSlot w.code.toNat w.seq order s
  | .journal => journalSlot w.code.toNat w.seq w.arg s

/-- R174: an order word is taken. -/
def takeOrder (slot : Slot) (order : List Nat) (w : OrderWord) (s : State) : State :=
  whenRunning slot w.seq (ownerActs slot order w) s

/-- R173, R174: the read of a slot's order word completes. -/
def orderRead (slot : Slot) (order : List Nat) (s : State) : State :=
  takeOrder slot order (orderWordAt s.store (areaAddr s (orderOffset slot))) (takeWatched (.order slot) s)

/-! ## The other watched words (R177 to R179, R59) -/

/-- R177: the notice mask is taken. -/
def maskRead (s : State) : State :=
  let t := takeWatched .mask s
  { t with ord.mask := (areaWord s offMask).setWidth 16 }

/-- R178: the bits an acknowledge clears: JOURNAL_LEVEL stays while its condition holds (R60). -/
def clearedBits (named : Half) (s : State) : Half :=
  if s.jwr.level then named &&& ~~~Notice.journalLevel.word else named

/-- R178: an acknowledge is taken. -/
def acknowledge (named : Half) (s : State) : State :=
  setSummary (s.ord.summary &&& ~~~clearedBits named s)
    { s with mixer.clip := s.mixer.clip && named &&& Notice.audioClip.word == 0 }

/-- R178: the acknowledge word is taken. -/
def acknowledgeRead (s : State) : State :=
  acknowledge ((areaWord s offAcknowledge).setWidth 16) (takeWatched .acknowledge s)

/-- R179: the selector word is taken. -/
def selectorRead (s : State) : State :=
  takeSelector (areaWord s offSelector) (takeWatched .selector s)

/-- R59: the read mark word is taken while RUN is set, and handed to JWR; RUN is tested when ORD's read of the word completes (log 48). -/
def markRead (s : State) : State :=
  let t := takeWatched .readMark s
  if s.running then handItem (.readMark (areaWord s offReadMark)) t else t

end Sys2Proof.Machine
end

