-- ==== Sys2Proof/Machine/CmdOrder.lean ====
section
/-!
DEFINITION. The commands of the four order slots: an order handed to the block that owns it, with its sequence and argument (R174; log 5).
-/

namespace Sys2Proof.Machine

/-- The outcome of an order: what its block does while running, REFUSED_STATE otherwise (R174). -/
def orderAct (slot : Slot) (seq : Half) (f : State → State) (s : State) : Host.Outcome State Fault Refusal :=
  act true (whenRunning slot seq f) s

/-- UNKNOWN_ORDER (R174): an order of a code that the slot does not know; a code it knows is not this command's event. -/
def execUnknownOrder (slot : Slot) (code : Byte) (seq : Half) (s : State) : Host.Outcome State Fault Refusal :=
  act (!slot.knows code) (whenRunning slot seq (answer slot seq .unknownOrder)) s

/-- MOVE_SILENT (R74 to R78). -/
def execMoveSilent (seq : Half) (s : State) : Host.Outcome State Fault Refusal :=
  orderAct .rail seq (moveOrder .silent seq) s

/-- MOVE_ACOUSTIC (R74 to R78). -/
def execMoveAcoustic (seq : Half) (s : State) : Host.Outcome State Fault Refusal :=
  orderAct .rail seq (moveOrder .acoustic seq) s

/-- FREE (R87). -/
def execFree (seq : Half) (s : State) : Host.Outcome State Fault Refusal :=
  orderAct .rail seq (permissionOrder .free seq) s

/-- HOLD (R87, R88). -/
def execHold (seq : Half) (s : State) : Host.Outcome State Fault Refusal :=
  orderAct .rail seq (permissionOrder .held seq) s

/-- PIN (R87, R88). -/
def execPin (seq : Half) (s : State) : Host.Outcome State Fault Refusal :=
  orderAct .rail seq (permissionOrder .pinned seq) s

/-- CLEAR_FAULT (R89). -/
def execClearFault (seq : Half) (s : State) : Host.Outcome State Fault Refusal :=
  orderAct .rail seq (clearFaultOrder seq) s

/-- START (R151). -/
def execStart (seq : Half) (s : State) : Host.Outcome State Fault Refusal :=
  orderAct .play seq (startOrder seq) s

/-- STOP (R152). -/
def execStop (seq : Half) (s : State) : Host.Outcome State Fault Refusal :=
  orderAct .play seq (stopOrder seq) s

/-- PAUSE (R153). -/
def execPause (seq : Half) (s : State) : Host.Outcome State Fault Refusal :=
  orderAct .play seq (pauseOrder seq) s

/-- RESUME (R154). -/
def execResume (seq : Half) (s : State) : Host.Outcome State Fault Refusal :=
  orderAct .play seq (resumeOrder seq) s

/-- TEMPO (R155). -/
def execTempo (seq : Half) (arg : Word) (s : State) : Host.Outcome State Fault Refusal :=
  orderAct .play seq (tempoOrder seq arg) s

/-- TRACKS (R155). -/
def execTracks (seq : Half) (arg : Word) (s : State) : Host.Outcome State Fault Refusal :=
  orderAct .play seq (tracksOrder seq arg) s

/-- SEEK (R168). -/
def execSeek (seq : Half) (arg : Word) (s : State) : Host.Outcome State Fault Refusal :=
  orderAct .play seq (seekOrder seq arg) s

/-- LOOP (R164). -/
def execLoop (seq : Half) (arg : Word) (s : State) : Host.Outcome State Fault Refusal :=
  orderAct .play seq (loopOrder seq arg) s

/-- SKIP (R162). -/
def execSkip (seq : Half) (s : State) : Host.Outcome State Fault Refusal :=
  orderAct .play seq (skipOrder seq) s

/-- CAL_REST (R44). -/
def execCalRest (seq : Half) (order : List Nat) (s : State) : Host.Outcome State Fault Refusal :=
  orderAct .cal seq (captureOrder .rest seq order) s

/-- CAL_BOTTOM (R44). -/
def execCalBottom (seq : Half) (order : List Nat) (s : State) : Host.Outcome State Fault Refusal :=
  orderAct .cal seq (captureOrder .bottom seq order) s

/-- CAL_END (R47). -/
def execCalEnd (seq : Half) (s : State) : Host.Outcome State Fault Refusal :=
  orderAct .cal seq (endOrder seq) s

/-- CAL_ABANDON (R49). -/
def execCalAbandon (seq : Half) (s : State) : Host.Outcome State Fault Refusal :=
  orderAct .cal seq (abandonOrder seq) s

/-- JOURNAL_MARK (R61). -/
def execJournalMark (seq : Half) (arg : Word) (s : State) : Host.Outcome State Fault Refusal :=
  orderAct .journal seq (markOrder seq arg) s

/-- JOURNAL_RESTART (R62). -/
def execJournalRestart (seq : Half) (s : State) : Host.Outcome State Fault Refusal :=
  orderAct .journal seq (restartOrder seq) s

end Sys2Proof.Machine
end

