-- ==== Sys2Proof/Machine/CmdStore.lean ====
section
/-!
DEFINITION. The commands that end a store access: those of SFU, SCR, JWR, the link and ORD, and the taking of the watched words.
-/

namespace Sys2Proof.Machine

/-- R137: the reader's access ends. -/
def endScoreRead (s : State) : State := scoreReadDone (endAccess s)

/-- R112: SFU's access ends. -/
def endBurst (s : State) : State :=
  match s.burst with
  | some b => burstDone b (endAccess s)
  | none => s

/-- Whether JWR is writing a record. -/
def writesRecord (s : State) : Bool :=
  s.busy == some .jwr && (match s.jwr.op with
    | .writing _ _ _ _ => true
    | .idle | .marking _ _ | .restartWrite _ | .restartRead _ | .startWrite | .startRead => false)

/-- Whether JWR is writing a mark word. -/
def writesMark (s : State) : Bool :=
  s.busy == some .jwr && (match s.jwr.op with
    | .marking _ _ | .restartWrite _ | .restartRead _ | .startWrite | .startRead => true
    | .idle | .writing _ _ _ _ => false)

/-- SCORE_READ_DONE (R137). -/
def execScoreReadDone (s : State) : Host.Outcome State Fault Refusal :=
  whenDone (fun s => s.busy == some .scr) endScoreRead s

/-- BURST_ARRIVES (R112). -/
def execBurstArrives (s : State) : Host.Outcome State Fault Refusal :=
  whenDone (fun s => s.busy == some .sfu) endBurst s

/-- JOURNAL_RECORD_WRITE_DONE (R56). -/
def execJournalRecordWriteDone (s : State) : Host.Outcome State Fault Refusal :=
  whenDone writesRecord (fun s => recordWritten (endAccess s)) s

/-- WRITE_MARK_WORD_WRITTEN (R56, R62). -/
def execWriteMarkWordWritten (s : State) : Host.Outcome State Fault Refusal :=
  whenDone writesMark (fun s => markWritten (endAccess s)) s

/-- LINK_WORD_ACCESS_DONE (R188). -/
def execLinkWordAccessDone (s : State) : Host.Outcome State Fault Refusal :=
  whenDone (fun s => s.busy == some .link) linkAccessDone s

/-- NOTICE_MASK (R177). -/
def execNoticeMask (s : State) : Host.Outcome State Fault Refusal :=
  whenDone (readsWatched .mask) maskRead s

/-- NOTICE_ACKNOWLEDGE (R178). -/
def execNoticeAcknowledge (s : State) : Host.Outcome State Fault Refusal :=
  whenDone (readsWatched .acknowledge) acknowledgeRead s

/-- SETTINGS_SELECTOR (R179). -/
def execSettingsSelector (s : State) : Host.Outcome State Fault Refusal :=
  whenDone (readsWatched .selector) selectorRead s

/-- PAGE_READ_DONE (R180). -/
def execPageReadDone (s : State) : Host.Outcome State Fault Refusal := whenDone readsPageEnd pageReadDone s

/-- ADOPTION_COMPLETION (R181). -/
def execAdoptionCompletion (l : Lines) (c : AdoptionChoice) (s : State) : Host.Outcome State Fault Refusal :=
  whenDone readsAdoptionEnd (adoptionReadDone l c) s

/-- PAGE_STATUS_WRITTEN (R181). -/
def execPageStatusWritten (s : State) : Host.Outcome State Fault Refusal :=
  whenDone writesPageStatus pageStatusDone s

/-- ORDER_WORD_TAKEN (R174). -/
def execOrderWordTaken (slot : Slot) (order : List Nat) (s : State) : Host.Outcome State Fault Refusal :=
  whenDone (readsWatched (.order slot)) (orderRead slot order) s

/-- ANSWER_WRITTEN (R175). -/
def execAnswerWritten (s : State) : Host.Outcome State Fault Refusal := whenDone writesAnswer answerDone s

/-- CAL_TABLE_WRITTEN (R48). -/
def execCalTableWritten (s : State) : Host.Outcome State Fault Refusal :=
  whenDone writesTableEnd calTableDone s

/-- READ_MARK (R59). -/
def execReadMark (s : State) : Host.Outcome State Fault Refusal :=
  whenDone (readsWatched .readMark) markRead s

end Sys2Proof.Machine
end

