-- ==== Sys2Proof/Machine/Dispatch.lean ====
section
/-!
DEFINITION. The effect of every command on everything but the queue: one arm for each constructor of `Instr`.
-/

namespace Sys2Proof.Machine

/-- The command's effect, by the rules of the row it names. -/
def exec (i : Instr) (s : State) : Host.Outcome State Fault Refusal :=
  match i with
  | .scanCompletion scan => Sys2Proof.Machine.execScanCompletion scan s
  | .restCaptureComplete scan => Sys2Proof.Machine.execRestCaptureComplete scan s
  | .bottomCaptureExpired scan => Sys2Proof.Machine.execBottomCaptureExpired scan s
  | .settleCountdownExpiry scan => Sys2Proof.Machine.execSettleCountdownExpiry scan s
  | .railTick scan => Sys2Proof.Machine.execRailTick scan s
  | .inputFilterChange input scan => Sys2Proof.Machine.execInputFilterChange input scan s
  | .travelLimitStall scan => Sys2Proof.Machine.execTravelLimitStall scan s
  | .holdLimitExpiry scan => Sys2Proof.Machine.execHoldLimitExpiry scan s
  | .reversalDwellEnd scan => Sys2Proof.Machine.execReversalDwellEnd scan s
  | .keyViewRefresh => Sys2Proof.Machine.execKeyViewRefresh s
  | .statusRefresh => Sys2Proof.Machine.execStatusRefresh s
  | .audioBlock dispatchesFirst => Sys2Proof.Machine.execAudioBlock dispatchesFirst s
  | .scoreReadDone => Sys2Proof.Machine.execScoreReadDone s
  | .burstArrives => Sys2Proof.Machine.execBurstArrives s
  | .journalRecordWriteDone => Sys2Proof.Machine.execJournalRecordWriteDone s
  | .writeMarkWordWritten => Sys2Proof.Machine.execWriteMarkWordWritten s
  | .linkStoreRead sent bytes => Sys2Proof.Machine.execLinkStoreRead sent bytes s
  | .linkStoreWrite sent => Sys2Proof.Machine.execLinkStoreWrite sent s
  | .linkWordAccessDone => Sys2Proof.Machine.execLinkWordAccessDone s
  | .linkAged => Sys2Proof.Machine.execLinkAged s
  | .bankSet sent => Sys2Proof.Machine.execBankSet sent s
  | .regRead sent => Sys2Proof.Machine.execRegRead sent s
  | .unknownCommand code => Sys2Proof.Machine.execUnknownCommand code s
  | .lselRise landed => Sys2Proof.Machine.execLselRise landed s
  | .areaWrite value => Sys2Proof.Machine.execAreaWrite value s
  | .regWrite sent => Sys2Proof.Machine.execRegWrite sent s
  | .runRising => Sys2Proof.Machine.execRunRising s
  | .runClear => Sys2Proof.Machine.execRunClear s
  | .softReset landed => Sys2Proof.Machine.execSoftReset landed s
  | .powerOn => Sys2Proof.Machine.execPowerOn s
  | .resetLine landed => Sys2Proof.Machine.execResetLine landed s
  | .resetEnd lines => Sys2Proof.Machine.execResetEnd lines s
  | .noticeMask => Sys2Proof.Machine.execNoticeMask s
  | .noticeAcknowledge => Sys2Proof.Machine.execNoticeAcknowledge s
  | .settingsSelector => Sys2Proof.Machine.execSettingsSelector s
  | .pageReadDone => Sys2Proof.Machine.execPageReadDone s
  | .adoptionCompletion lines choice => Sys2Proof.Machine.execAdoptionCompletion lines choice s
  | .pageStatusWritten => Sys2Proof.Machine.execPageStatusWritten s
  | .orderWordTaken slot journalOrder => Sys2Proof.Machine.execOrderWordTaken slot journalOrder s
  | .unknownOrder slot code seq => Sys2Proof.Machine.execUnknownOrder slot code seq s
  | .answerWritten => Sys2Proof.Machine.execAnswerWritten s
  | .moveSilent seq => Sys2Proof.Machine.execMoveSilent seq s
  | .moveAcoustic seq => Sys2Proof.Machine.execMoveAcoustic seq s
  | .free seq => Sys2Proof.Machine.execFree seq s
  | .hold seq => Sys2Proof.Machine.execHold seq s
  | .pin seq => Sys2Proof.Machine.execPin seq s
  | .clearFault seq => Sys2Proof.Machine.execClearFault seq s
  | .start seq => Sys2Proof.Machine.execStart seq s
  | .stop seq => Sys2Proof.Machine.execStop seq s
  | .pause seq => Sys2Proof.Machine.execPause seq s
  | .resume seq => Sys2Proof.Machine.execResume seq s
  | .tempo seq arg => Sys2Proof.Machine.execTempo seq arg s
  | .tracks seq arg => Sys2Proof.Machine.execTracks seq arg s
  | .seek seq arg => Sys2Proof.Machine.execSeek seq arg s
  | .loop seq arg => Sys2Proof.Machine.execLoop seq arg s
  | .skip seq => Sys2Proof.Machine.execSkip seq s
  | .calRest seq journalOrder => Sys2Proof.Machine.execCalRest seq journalOrder s
  | .calBottom seq journalOrder => Sys2Proof.Machine.execCalBottom seq journalOrder s
  | .calEnd seq => Sys2Proof.Machine.execCalEnd seq s
  | .calAbandon seq => Sys2Proof.Machine.execCalAbandon seq s
  | .calTableWritten => Sys2Proof.Machine.execCalTableWritten s
  | .journalMark seq arg => Sys2Proof.Machine.execJournalMark seq arg s
  | .journalRestart seq => Sys2Proof.Machine.execJournalRestart seq s
  | .readMark => Sys2Proof.Machine.execReadMark s
  | .outputFrameStart => Sys2Proof.Machine.execOutputFrameStart s

end Sys2Proof.Machine
end

