-- ==== Sys2Proof/Machine/Step.lean ====
section
/-!
DEFINITION. A step of the block: the command at the front of the queue, in the order in which the outside sent them (log 1, 39).
-/

namespace Sys2Proof.Machine

/-- Take the command at the front of the queue and run it on the machine with the queue's rest.
On an empty queue ORD's access in progress ends if its end is no row of the table (log 6), and the block idles otherwise (log 1). -/
def step (s : State) : Host.Outcome State Fault Refusal :=
  match s.pending with
  | [] => .next (idle s)
  | c :: rest => exec c { s with pending := rest }

/-- The command a word spells, put at the front of the queue; no word of this table spells one (log 38). -/
def State.withFetchWord (s : State) (nbits w : Nat) : State :=
  match decodeTableWord nbits w with
  | some c => { s with pending := c :: s.pending }
  | none => s

end Sys2Proof.Machine
end

