-- ==== Sys2Proof/Safety.lean ====
section
/-!
DEFINITION. The words the statements use: completion, the part of the state that is a block's own, which commands follow a store access, and what a write or a reset may change of the store.
-/

namespace Sys2Proof.Machine

/-- A command completes in a state when it answers a next state. -/
def completes (c : Instr) (s : State) : Prop := ∃ t, exec c s = .next t

/-- No step of the machine from this state stops it. -/
def neverStops (s : State) : Prop := ∃ t, step s = .next t

/-- The fields of the state that the common end of a command (`finish`) never touches: those of the blocks that only their own rules change.
What is left out is ORD's and JWR's record, the store, the arbiter, the start sequence and the voice table with its fetching. -/
structure Calm where
  pending : List Instr
  inReset : Bool
  area : Word
  running : Bool
  lines : Lines
  muxAddress : BitVec 4
  raw : Vector Nat 96
  scanCount : Word
  keys : Vector KeyRec 88
  pedals : Vector PedalRec 3
  lastZone : Zone
  live : Context
  playback : Context
  cal : Vector CalEntry 96
  cap : Capture
  rail : Rail
  mapCopy : Vector (List Layer) 88
  startCounter : Word
  stats : VoiceStats
  streams : Region
  mixer : Mixer
  phones : Phones
  scr : Reader
  play : Play
  settings : Settings
  link : Link
  deriving DecidableEq

/-- The calm part of a state. -/
def calm (s : State) : Calm :=
  ⟨s.pending, s.inReset, s.area, s.running, s.lines, s.muxAddress, s.raw, s.scanCount, s.keys, s.pedals, s.lastZone, s.live, s.playback,
   s.cal, s.cap, s.rail, s.mapCopy, s.startCounter, s.stats, s.streams, s.mixer, s.phones, s.scr, s.play, s.settings, s.link⟩

/-- A slot's order has been answered with a result: the write of its answer word waits in ORD's list (R175). -/
def answered (slot : Slot) (seq : Half) (r : Result) (s : State) : Prop := .answer slot seq r ∈ s.ord.list

/-- The engaged flag of a context is clear only with an empty set (R37). -/
def Context.sound (c : Context) : Prop := c.engaged = true ∨ c.held = KeySet.none

/-- A move is in flight only with the permission FREE, and the motor runs only with the quiet flag set (R67). -/
def Rail.sound (r : Rail) : Prop :=
  (r.state.moving = true → r.perm = .free) ∧ (r.state.driving = true → r.quiet = true)

/-- The prompt set holds at most 16 entries in the order of their dues, never two for one key, and none in STOPPED and ENDED (R156), nor while a seek is in flight (R168); an armed loop has two different marks (R164). -/
def Play.sound (p : Play) : Prop :=
  p.prompts.length ≤ 16 ∧ (p.prompts.map Prompt.key).Nodup
    ∧ (p.state = .stopped ∨ p.state = .ended ∨ p.state = .seeking → p.prompts = [])
    ∧ (p.loop.armed = true → p.loop.startId ≠ p.loop.endId)
    ∧ p.prompts.Pairwise (fun x y => x.due ≤ y.due)

/-- The journal's capacity is 0 or a size the spec allows, its fill is at most the capacity, and a record is written only where there is room (R52, R56). -/
def Journal.sound (j : Journal) : Prop :=
  j.capacity ≤ 65536 ∧ j.fill ≤ j.capacity
    ∧ (∀ r g b a, j.op = .writing r g b a → j.fill < j.capacity)

/-- The journal of a state is sound, and the JOURNAL region held is no larger than the spec allows (R183). -/
def journalSound (s : State) : Prop := s.jwr.sound ∧ s.ord.regions.journal.len ≤ 8 * 65536

/-- For each key and each source at most one voice is active (R101). -/
def voicesSound (vs : Vector Voice 80) : Prop :=
  ∀ i j : Fin 80, (vs[i]).state.active = true → (vs[j]).state.active = true →
    (vs[i]).key = (vs[j]).key → (vs[i]).source = (vs[j]).source → i = j

/-- The playback count is at most the playback cap (R102). -/
def capSound (s : State) : Prop := playbackCount s ≤ playbackCap s

/-- AREA_BASE is a multiple of 16 KiB within the store (R190, R196). -/
def areaSound (s : State) : Prop := s.area &&& 0x03FF_C000 = s.area

/-- Where an access of ORD writes, it writes inside the work area. -/
def OrdAccess.sound (a : OrdAccess) : Prop :=
  ∀ sum off bytes, a.write sum = some (off, bytes) → off + bytes.length ≤ 0x4000

/-- Every access of ORD's list writes inside the work area (R172). -/
def listSound (s : State) : Prop := ∀ a ∈ s.ord.list, a.sound

/-- An address of the store that is not in the work area of `s`. -/
def outsideArea (s : State) (a : Nat) : Prop :=
  a < Config.storeSize ∧ (a < s.area.toNat ∨ s.area.toNat + 0x4000 ≤ a)

/-- The slot and sequence of the order that a command is; none for a command that is no order (12.2). -/
def slotAndSeq : Instr → Option (Slot × Half)
  | .moveSilent q | .moveAcoustic q | .free q | .hold q | .pin q | .clearFault q => some (.rail, q)
  | .start q | .stop q | .pause q | .resume q | .tempo q _ | .tracks q _ | .seek q _ | .loop q _
  | .skip q => some (.play, q)
  | .calRest q _ | .calBottom q _ | .calEnd q | .calAbandon q => some (.cal, q)
  | .journalMark q _ | .journalRestart q => some (.journal, q)
  | .unknownOrder slot code q => if slot.knows code then none else some (slot, q)
  | _ => none

/-- The row of the order that an order word of a slot holds (12.2); `order` is the row's own open order. -/
def orderRow (slot : Slot) (order : List Nat) (w : OrderWord) : Instr :=
  match slot, w.code.toNat with
  | .rail, 1 => .moveSilent w.seq
  | .rail, 2 => .moveAcoustic w.seq
  | .rail, 3 => .free w.seq
  | .rail, 4 => .hold w.seq
  | .rail, 5 => .pin w.seq
  | .rail, 6 => .clearFault w.seq
  | .play, 1 => .start w.seq
  | .play, 2 => .stop w.seq
  | .play, 3 => .pause w.seq
  | .play, 4 => .resume w.seq
  | .play, 5 => .tempo w.seq w.arg
  | .play, 6 => .tracks w.seq w.arg
  | .play, 7 => .seek w.seq w.arg
  | .play, 8 => .loop w.seq w.arg
  | .play, 9 => .skip w.seq
  | .cal, 1 => .calRest w.seq order
  | .cal, 2 => .calBottom w.seq order
  | .cal, 3 => .calEnd w.seq
  | .cal, 4 => .calAbandon w.seq
  | .journal, 1 => .journalMark w.seq w.arg
  | .journal, 2 => .journalRestart w.seq
  | _, _ => .unknownOrder slot w.code w.seq

/-- The commands whose event only follows the end of an access of the store: the accesses without a row that stood before it have ended by then, and ORD's writes among them are in the store (log 6). -/
def followsAccess : Instr → Bool
  | .keyViewRefresh | .statusRefresh | .scoreReadDone | .burstArrives | .journalRecordWriteDone
  | .writeMarkWordWritten | .linkWordAccessDone | .noticeMask | .noticeAcknowledge | .settingsSelector
  | .pageReadDone | .adoptionCompletion _ _ | .pageStatusWritten | .orderWordTaken _ _ | .answerWritten
  | .calTableWritten | .readMark => true
  | _ => false

/-- No playback voice is active. -/
def noPlaybackVoice (s : State) : Prop :=
  ∀ i : Fin 80, (s.voices[i]).state.active = true → (s.voices[i]).source = .live

/-- From `s` to `t` every active voice of the sources in `which` is sent to FADING by R101: a PRIMING one is FREE with an empty buffer, another is FADING and keeps its other fields but its release pending flag, which is cleared; every other voice is as before. -/
def sendsToFading (which : VoiceSource → Bool) (s t : State) : Prop :=
  ∀ i : Fin 80,
    let v := s.voices[i]
    let w := t.voices[i]
    (which v.source = true → v.state = .priming →
      w = { v with state := .free, buffer := [], pending := false, relPending := false })
    ∧ (which v.source = true → (v.state = .sounding ∨ v.state = .releasing ∨ v.state = .held) →
      w = { v with state := .fading, relPending := false })
    ∧ ((which v.source = false ∨ v.state = .free ∨ v.state = .fading) → w = v)

/-- Context `d` is context `b`, which has its depths, evaluated with these settings: zone and h (R34), a rise that takes `noteOn` (R36), or a fall (R37). -/
def Context.evaluates (set : Settings) (noteOn : KeySet) (b d : Context) : Prop :=
  d.damper = b.damper ∧ d.sostenuto = b.sostenuto ∧ d.soft = b.soft
  ∧ d.zone = damperZone set b.damper ∧ d.h = damperFactor set b.damper
  ∧ (b.engaged = true → b.sostenuto < set.sOff → d.engaged = false ∧ d.held = KeySet.none)
  ∧ (b.engaged = true → set.sOff ≤ b.sostenuto → d.engaged = true ∧ d.held = b.held)
  ∧ (b.engaged = false → set.sOn ≤ b.sostenuto → d.engaged = true ∧ d.held = noteOn)
  ∧ (b.engaged = false → b.sostenuto < set.sOn → d.engaged = false ∧ d.held = b.held)

/-- The LIVE context of `t` is that of `s` after it has taken the depths of the pedals of `t` that are not FROZEN and has been evaluated with these settings; a rise takes the keys that are note-on in `t` (R31, R33). -/
def liveFollows (set : Settings) (s t : State) : Prop :=
  let depth := fun (p : Fin 3) (old : Nat) =>
    if (t.pedals[p]).mode = .frozen then old else (t.pedals[p]).sensor.depth
  Context.evaluates set (liveNoteOn t.keys)
    { s.live with damper := depth 0 s.live.damper, sostenuto := depth 1 s.live.sostenuto,
                  soft := depth 2 s.live.soft } t.live

/-- From `s` to `t` the keys have left CAPTURE and the pedals FROZEN, by the calibration of `t` and these raw values; one that becomes DISABLED and was not at the capture's start is noticed (R25, R31). -/
def leavesCapture (keyRaw : Fin 88 → Nat) (pedalRaw : Fin 3 → Nat) (s t : State) : Prop :=
  (∀ k : Fin 88, (s.keys[k]).state = .capture →
    let c := t.cal[keyChannel k]
    let d := depthOf c (keyRaw k)
    (c.rz + 256 ≤ c.bt → t.keys[k] =
      { s.keys[k] with state := if d < s.settings.u then .idle else .returning, cause := .none,
                       timing := none, sensor := ⟨keyRaw k, d, none, 0, false⟩ })
    ∧ (c.bt < c.rz + 256 → t.keys[k] =
        { s.keys[k] with state := .disabled, cause := .calibration, timing := none,
                         sensor := ⟨keyRaw k, 0, none, 0, false⟩ }
      ∧ ((s.keys[k]).cause = .none → noticed .keyFault t = true)))
  ∧ (∀ p : Fin 3, (s.pedals[p]).mode = .frozen →
    let c := t.cal[pedalChannel p]
    (c.rz + 256 ≤ c.bt → t.pedals[p] =
      { s.pedals[p] with mode := .active, wasActive := false,
                         sensor := ⟨pedalRaw p, depthOf c (pedalRaw p), none, 0, false⟩ })
    ∧ (c.bt < c.rz + 256 → t.pedals[p] =
        { s.pedals[p] with mode := .disabled, wasActive := false, sensor := ⟨pedalRaw p, 0, none, 0, false⟩ }
      ∧ ((s.pedals[p]).wasActive = true → noticed .keyFault t = true)))

/-- Every byte of the store reads as before but the `n` bytes from address `a` on. -/
def onlyBytes (a n : Nat) (s t : State) : Prop :=
  ∀ y, (∀ i, i < n → storeAddr y ≠ storeAddr (a + i)) → readByte t.store y = readByte s.store y

/-- The store of `t` is that of `s` after a reset: whole where no store write was in progress; of one in progress the words that have landed hold the new bytes and the rest the old ones, a journal record and a calibration entry whole or not at all, and no byte outside it changes (R193, R50, R56; log 16). -/
def keepsStore (landed : Nat) (s t : State) : Prop :=
  (writeInProgress s = none → t.store = s.store)
  ∧ ∀ a bytes, writeInProgress s = some (a, bytes) → Memory.wf s.store = true → listSound s →
      let n := if writesWhole s then (if 0 < landed then bytes.length else 0) else min (4 * landed) bytes.length
      onlyBytes a bytes.length s t
      ∧ readBytes t.store a n = bytes.take n
      ∧ ∀ i, n ≤ i → i < bytes.length → readByte t.store (a + i) = readByte s.store (a + i)

end Sys2Proof.Machine
end

