-- ==== Sys2Proof/Certificates/Slice0/Obligations.lean ====
section
/-!
DEFINITION. The statements for the provers.
`finish u` is what every command ends with (Machine/Arbiter.lean): what a statement says of `u` is said of the command's own effect, and `calm` is the part of the state that `finish` leaves as it is.
-/

open Sys2Proof Sys2Proof.Machine

/-! ## The block -/

/-- A step of a block whose queue begins with `c` is `c` run on the state with the queue's rest (log 1, 39). -/
def Obligations.StepRunsFrontCommand : Prop :=
  ∀ (c : Instr) (rest : List Instr) (s : State),
    step { s with pending := c :: rest } = exec c { s with pending := rest }

/-- On an empty queue the block idles, or ORD's access in progress ends where its end is no row of the table (the model's choice, log 1 and 6): what it writes is in the store, and nothing else is; a word of a page is taken as it stands then (R180). -/
def Obligations.StepIdlesOnEmptyQueue : Prop :=
  ∀ s : State, s.pending = [] →
    ((s.inReset = true ∨ rowlessHead s = none) → step s = .next s)
    ∧ (∀ a, s.inReset = false → rowlessHead s = some a → listSound s → Memory.wf s.store = true →
      ∃ u, step s = .next (finish u) ∧ u.busy = none ∧ u.jwr = s.jwr
        ∧ calm u = { calm s with scr := u.scr, play := u.play } ∧ ((∀ n, a ≠ .firstBlock n) → calm u = calm s)
        ∧ (a.write s.ord.summary = none → u.store = s.store)
        ∧ (∀ off bytes, a.write s.ord.summary = some (off, bytes) →
            readBytes u.store (areaAddr s off) bytes.length = bytes ∧ onlyBytes (areaAddr s off) bytes.length s u)
        ∧ (∀ i, a = .pageWord i → u.ord.adoption.bytes = s.ord.adoption.bytes
            ++ readBytes s.store (areaAddr s (pageOffset s.ord.adoption.page) + 4 * i) 4))

/-- No command stops the machine, and none changes the queue of waiting commands: `exec` answers a next state for every command in every state, with the queue as it was.
That a command whose event cannot happen in a state answers a next state all the same is the model's choice (log 3). -/
def Obligations.NoCommandStops : Prop :=
  ∀ (c : Instr) (s : State), ∃ t, exec c s = .next t ∧ t.pending = s.pending

/-! ## Resets -/

/-- R7: after a reset every key record holds R7's values, no key event is issued, and the key view shows an absent last velocity as 0. -/
def Obligations.ResetsGiveKeyRecords : Prop :=
  (∀ (s : State) (landed : Nat) (c : Instr),
    (c = .powerOn ∨ c = .resetLine landed
      ∨ (c = .softReset landed ∧ s.inReset = false ∧ s.link.mode = .closed)
      ∨ (c = .lselRise landed ∧ s.link.mode = .resetting)) →
    ∃ t, exec c s = .next t ∧ t.jwr.hand = []
      ∧ ∀ k : Fin 88, t.keys[k] =
          ⟨.disabled, ⟨0, 0, none, 0, false⟩, none, none, .calibration⟩)
  ∧ ∀ (s : State) (k : Fin 88), (s.keys[k]).lastVelocity = none → (keyEntry s k)[4]? = some 0

/-- R193: POWER_ON, RESET_LINE and SOFT_RESET give every block its reset values (R1, R2, R28, R33, R41, R43, R52, R94, R97, R98, R116, R118, R131, R136, R143, R182) and hold the reset; they differ in the store, AREA and the bank. R193, R50, R56: of a store write in progress the reset leaves new or old words, a journal record and a calibration entry as a whole, and no byte outside it changes; which words is the operand's (log 16). The rise of LSEL that closes a CONTROL write with SOFT_RESET 1 is the same reset as the row SOFT_RESET (log 33).
The values of the fields that no rule gives a reset value (those of a FREE voice, the threshold in force, the first-block offset last taken, a pedal's mark of having been ACTIVE, the capture orders' and ORD's work fields and refresh flags) and an unwritten store after POWER_ON are the model's choice (log 9, log 7). -/
def Obligations.ResetsKeepWhatTheyKeep : Prop :=
  ∀ (s : State) (landed : Nat),
    let nothing : Context := ⟨0, .down, 0, 0, false, KeySet.none, 0⟩
    let silence : List Frame := List.replicate 64 (0, 0)
    let fresh := fun t : State =>
      t.inReset = true ∧ t.running = false ∧ t.runBit = false ∧ t.areaError = .none ∧ t.start = .none
      ∧ t.busy = none ∧ t.ord = OrderUnit.reset ∧ t.ord.list = [] ∧ t.ord.regions = ⟨⟨0, 0⟩, ⟨0, 0⟩, ⟨0, 0⟩⟩
      ∧ t.muxAddress = 0 ∧ t.scanCount = 0 ∧ (∀ c : Fin 96, t.raw[c] = 0)
      ∧ (∀ p : Fin 3, t.pedals[p] = ⟨.disabled, ⟨0, 0, none, 0, false⟩, 0, false⟩) ∧ t.lastZone = .down
      ∧ t.live = nothing ∧ t.playback = nothing
      ∧ (∀ c : Fin 96, t.cal[c] = ⟨0, 0, false, false⟩)
      ∧ (∀ c : Fin 96, t.cap.acc[c] = ⟨0, 0, 0⟩)
      ∧ t.cap = ⟨none, 0, none, none, false, none, none, 0, 0, 0, t.cap.acc⟩
      ∧ t.jwr = ⟨0, 0, 0, 0, 0, 0, false, [], .idle⟩
      ∧ (∀ k : Fin 88, t.mapCopy[k] = [])
      ∧ t.voices = Vector.replicate 80 Voice.reset ∧ t.startCounter = 0 ∧ t.stats = ⟨0, 0, 0, 0, 0⟩
      ∧ t.fetchOrder = [] ∧ t.burst = none
      ∧ t.mixer = ⟨0, 0, false, 0, .framed⟩ ∧ t.phones = ⟨silence, silence, 0, (0, 0), .framed, true, true⟩
      ∧ t.scr = ⟨[], .idle, none, none, 0, 0, 0, none, 0⟩
      ∧ t.play = ⟨.stopped, 0, 0, 100, Vector.replicate 4 .sound, ⟨0, 0, 0, false⟩, none, KeySet.none, .none, 0, none, []⟩
      ∧ t.settings = Settings.reset
    let ignores : LinkMode := if s.link.mode = .closed then .closed else .ignoring
    (∃ t, exec .powerOn s = .next t ∧ fresh t ∧ t.store = [] ∧ t.area = 0
      ∧ t.link = ⟨0, ignores, 0, [], 0, [], [], none, 0, false, []⟩)
    ∧ (∃ t, exec (.resetLine landed) s = .next t ∧ fresh t ∧ t.area = 0
      ∧ t.link = ⟨0, ignores, 0, [], 0, [], [], none, 0, false, []⟩ ∧ keepsStore landed s t)
    ∧ (∀ c, ((c = .softReset landed ∧ s.inReset = false ∧ s.link.mode = .closed)
        ∨ (c = .lselRise landed ∧ s.link.mode = .resetting)) →
      ∃ t, exec c s = .next t ∧ fresh t ∧ t.area = s.area
        ∧ t.link = ⟨s.link.bank, .closed, 0, [], 0, [], [], none, 0, false, []⟩ ∧ keepsStore landed s t)
    ∧ (∀ a l, s.busy = some .ord → s.ord.list = a :: l →
        writeInProgress s = (a.write s.ord.summary).map fun p => (areaAddr s p.1, p.2))
    ∧ (∀ r g b x, s.busy = some .jwr → s.jwr.op = .writing r g b x →
        writeInProgress s = some (s.ord.regions.journal.base + s.jwr.w.toNat % s.jwr.capacity * 8, r.bytes))
    ∧ (∀ b x, s.busy = some .jwr → s.jwr.op = .marking b x →
        writeInProgress s = some (areaAddr s offWriteMark, toBytes 4 s.jwr.w.toNat))
    ∧ (∀ q, s.busy = some .jwr → (s.jwr.op = .restartWrite q ∨ s.jwr.op = .startWrite) →
        writeInProgress s = some (areaAddr s offWriteMark, [0, 0, 0, 0]))
    ∧ (∀ q, s.busy = some .jwr → (s.jwr.op = .restartRead q ∨ s.jwr.op = .startRead) →
        writeInProgress s = some (areaAddr s offReadMark, [0, 0, 0, 0]))
    ∧ (∀ r, s.busy = some .link → s.link.request = some r →
        writeInProgress s = r.data.map fun w => (r.addr, toBytes 4 w.toNat))
    ∧ ((s.busy = none ∨ s.busy = some .sfu ∨ s.busy = some .scr) → writeInProgress s = none)
    ∧ (writesWhole s = true ↔ (s.busy = some .ord ∧ ∃ c v l, s.ord.list = .calEntry c v :: l)
        ∨ (s.busy = some .jwr ∧ ∃ r g b x, s.jwr.op = .writing r g b x))

/-- R193, R93: the end of a reset; the rail takes the values of R93's table from the raw levels of its inputs, and nothing else changes but the reset itself, the levels and a transaction that is open, which is ignored. -/
def Obligations.ResetEndGivesTheRail : Prop :=
  ∀ (s : State) (l : Lines), s.inReset = true →
    let st : RailState := if l.swHome then (if l.swStop then .part else .engaged)
      else if l.swStop then .retracted else .stalled
    exec (.resetEnd l) s = .next
      { s with
        inReset := false
        lines := l
        rail :=
          { inputs := ⟨⟨l.swHome, 0⟩, ⟨l.swStop, 0⟩, ⟨l.lever, 0⟩, ⟨l.svc, 0⟩⟩
            state := st
            dir := none
            target := if st = .engaged then .silent else .acoustic
            travel := 0
            pause := 0
            dwell := 0
            perm := .held
            stop := if st = .stalled then .switch else .none
            fault := if st = .stalled then .switch else .none
            source := .host
            limits := none
            settle := 0
            quiet := true }
        link.mode := if s.link.mode = .closed then .closed else .ignoring }

/-! ## Invariants that every step keeps -/

/-- The invariants below hold at State.reset. -/
def Obligations.InvariantsHoldAtReset : Prop :=
  Memory.wf State.reset.store = true ∧ State.reset.rail.sound ∧ State.reset.live.sound
    ∧ State.reset.playback.sound ∧ State.reset.play.sound ∧ journalSound State.reset
    ∧ voicesSound State.reset.voices ∧ capSound State.reset ∧ areaSound State.reset ∧ listSound State.reset

/-- The store keeps its canonical form. -/
def Obligations.StoreStaysCanonical : Prop :=
  ∀ s t : State, Memory.wf s.store = true → step s = .next t → Memory.wf t.store = true

/-- R67: the motor runs only with the permission FREE and the hammer-quiet condition holding; a move is in flight only with the permission FREE. -/
def Obligations.MotorRunsOnlyWhenAllowed : Prop :=
  ∀ s t : State, s.rail.sound → step s = .next t →
    t.rail.sound ∧ !(motorIn t && motorOut t)
      ∧ ((motorIn t || motorOut t) = true → t.rail.perm = .free ∧ t.rail.quiet = true)

/-- R37: a pedal context whose sostenuto is not engaged has an empty set. -/
def Obligations.SostenutoSetsStaySound : Prop :=
  ∀ s t : State, s.live.sound → s.playback.sound → step s = .next t → t.live.sound ∧ t.playback.sound

/-- R156: the prompt set holds at most 16 entries in the order of their dues, never two for one key, and is empty in STOPPED, ENDED and SEEKING. -/
def Obligations.PromptSetStaysSound : Prop :=
  ∀ s t : State, s.play.sound → step s = .next t → t.play.sound

/-- R52: the journal's fill never exceeds its capacity. -/
def Obligations.JournalFillStaysInCapacity : Prop :=
  ∀ s t : State, journalSound s → step s = .next t → journalSound t

/-- R101: for each key and each source at most one voice is active. -/
def Obligations.OneActiveVoicePerKeyAndSource : Prop :=
  ∀ s t : State, voicesSound s.voices → step s = .next t → voicesSound t.voices

/-- R102: the active playback voices never number more than the playback cap. -/
def Obligations.PlaybackVoicesStayUnderTheCap : Prop :=
  ∀ s t : State, capSound s → step s = .next t → capSound t

/-- R190, R196, R172: AREA_BASE stays a multiple of 16 KiB within the store, and every write that ORD decides on lies in the work area. -/
def Obligations.WorkAreaStaysSound : Prop :=
  ∀ s t : State, step s = .next t → (areaSound s → areaSound t) ∧ (listSound s → listSound t)

/-- R172, R184: no command writes outside the work area but the journal's record write, a word written over the link, and the resets; and a command that ends no store write leaves the whole store as it is.
The store after a reset says ResetsKeepWhatTheyKeep. That ORD's accesses without a row of their own have ended when a command comes that only follows them is the model's choice (log 6): their writes are in the store then. -/
def Obligations.NothingElseIsWritten : Prop :=
  ∀ (c : Instr) (s t : State), exec c s = .next t →
    (∀ n, c ≠ .softReset n ∧ c ≠ .resetLine n ∧ (c = .lselRise n → s.link.mode ≠ .resetting)) → c ≠ .powerOn →
    (∀ a, listSound s → areaSound s → c ≠ .journalRecordWriteDone → c ≠ .linkWordAccessDone →
      outsideArea s a → outsideArea t a → readByte t.store a = readByte s.store a)
    ∧ (followsAccess c = false → t.store = s.store)
    ∧ (rowlessHead s = none → c ≠ .journalRecordWriteDone → c ≠ .writeMarkWordWritten → c ≠ .linkWordAccessDone →
        c ≠ .pageStatusWritten → c ≠ .answerWritten → c ≠ .calTableWritten → t.store = s.store)

/-! ## Sensing -/

/-- R1, R2: a scan completion makes the 96 raw values current, and counts while the part runs; while it does not, the scan is handed to nobody. R4, R5, R9, R11: one of the run that does not end a capture gives every key record its step: the four cases of the glitch filter and its counter, then the checks of the six evaluated states on the depth that results, with the LIVE soft depth after the scan; a DISABLED key is tested and initialised. -/
def Obligations.ScanMakesValuesCurrentAndEvaluatesKeys : Prop :=
  (∀ (x : Scan) (s : State), s.inReset = false →
      ∃ t, exec (.scanCompletion x) s = .next t
        ∧ (∀ (input : Fin 6) (position : Fin 16),
            t.raw[16 * input.val + position.val] = ((x.conv[position])[input]).toNat)
        ∧ t.muxAddress = 0 ∧ t.lines = x.lines
        ∧ t.scanCount = (if s.running then s.scanCount + 1 else s.scanCount)
        ∧ (s.running = false → calm t = { calm s with raw := t.raw, lines := x.lines, muxAddress := 0 }))
  ∧ (∀ (j f d : Nat) (x : Sensor),
    let y := filterDepth j f d x
    let near := fun b : Nat => (d - b) + (b - d) ≤ j
    let took : Sensor := { x with depth := d, cand := none }
    let counted : Sensor :=
      if x.glitches < 255 then { x with glitches := x.glitches + 1, noisy := x.noisy || x.glitches == 254 } else x
    ((f = 0 ∨ near x.depth) → y = ⟨took, false⟩)
    ∧ (f ≠ 0 → ¬ near x.depth → x.cand = none →
        (f = 1 → y = ⟨took, false⟩) ∧ (f ≠ 1 → y = ⟨{ x with cand := some ⟨d, 1⟩ }, false⟩))
    ∧ (∀ c, f ≠ 0 → ¬ near x.depth → x.cand = some c → near c.depth →
        (f ≤ c.count + 1 → y = ⟨took, false⟩)
        ∧ (c.count + 1 < f → y = ⟨{ x with cand := some ⟨d, c.count + 1⟩ }, false⟩))
    ∧ (∀ c, f ≠ 0 → ¬ near x.depth → x.cand = some c → ¬ near c.depth →
        (f = 1 → y = ⟨{ counted with depth := d, cand := none }, x.glitches == 254⟩)
        ∧ (f ≠ 1 → y = ⟨{ counted with cand := some ⟨d, 1⟩ }, x.glitches == 254⟩)))
  ∧ ∀ (x : Scan) (s : State), s.inReset = false → s.running = true →
    (s.cap.running = some .rest → s.cap.scans + 1 < 256) → (s.cap.running = some .bottom → s.cap.scans + 1 < 480000) →
    ∃ t, exec (.scanCompletion x) s = .next t
      ∧ ∀ k : Fin 88,
          let r := s.keys[k]
          let c := s.cal[keyChannel k]
          let raw := (scanRaw x.conv)[keyChannel k]
          let d := depthOf c raw
          let f := filterDepth s.settings.jump s.settings.confirm d { r.sensor with raw := raw }
          let soft := if (t.pedals[(2 : Fin 3)]).mode = .frozen then s.live.soft else (t.pedals[(2 : Fin 3)]).sensor.depth
          (r.state ≠ .disabled → r.state ≠ .capture →
            t.keys[k] = (evaluate s.settings (s.scanCount + 1) k soft { r with sensor := f.sensor }).key
            ∧ (f.fault = true → noticed .keyFault t = true))
          ∧ (r.state = .disabled → c.rz + 256 ≤ c.bt → t.keys[k] =
              { r with state := if d < s.settings.u then .idle else .returning, cause := .none, timing := none,
                       sensor := { r.sensor with raw := raw, depth := d, cand := none } })
          ∧ (r.state = .disabled → c.bt < c.rz + 256 → t.keys[k] =
              { r with cause := .calibration, timing := none,
                       sensor := { r.sensor with raw := raw, depth := 0, cand := none } })
          ∧ (r.state = .capture → t.keys[k] = { r with sensor.raw := raw })

/-- R10, R12 to R16: the checks of the six evaluated states, in their order, on the accepted depth; R21, R22: a NOTE_ON leaves its velocity as the last velocity, and without one the last velocity is kept. -/
def Obligations.KeyChecksFollowTheTable : Prop :=
  ∀ (set : Settings) (now : Word) (key : Fin 88) (u : Nat) (r : KeyRec),
    let a := r.sensor.depth
    let k := evaluate set now key u r
    let rest : KeyState := if a < set.u then .idle else .returning
    k.key.sensor = r.sensor ∧ k.key.cause = r.cause
    ∧ (∀ v rep, k.event = some (.on v rep) → k.key.lastVelocity = some v)
    ∧ ((∀ v rep, k.event ≠ some (.on v rep)) → k.key.lastVelocity = r.lastVelocity)
    ∧ (r.state = .idle →
      (set.l ≤ a → k.key.state = .sounding ∧ k.event = some (.on (velocity set key (set.l - set.u) 1 u) false))
      ∧ (a < set.l → set.u ≤ a → k.key.state = .descent ∧ k.key.timing = some ⟨now, set.l - set.u⟩ ∧ k.event = none)
      ∧ (a < set.l → a < set.u → k = ⟨r, none, false⟩))
    ∧ (r.state = .descent → ∀ tm, r.timing = some tm →
      (set.l ≤ a → k.key.state = .sounding ∧ k.key.timing = none
        ∧ k.event = some (.on (velocity set key tm.span (elapsed now tm.start) u) false))
      ∧ (a < set.l → a < set.u → k.key.state = .idle ∧ k.key.timing = none ∧ k.event = none)
      ∧ (a < set.l → set.u ≤ a → k = ⟨r, none, false⟩))
    ∧ (r.state = .sounding →
      (a < set.d → k.key.state = rest ∧ k.event = some (.off false))
      ∧ (set.d ≤ a → a < set.p → k.key.state = .rearmed ∧ k.event = none)
      ∧ (set.d ≤ a → set.p ≤ a → k = ⟨r, none, false⟩))
    ∧ (r.state = .rearmed →
      (a < set.d → k.key.state = rest ∧ k.event = some (.off false))
      ∧ (set.d ≤ a → set.l ≤ a → k.key.state = .sounding
        ∧ k.event = some (.on (velocity set key (set.l - set.p) 1 u) true))
      ∧ (set.d ≤ a → a < set.l → set.p ≤ a → k.key.state = .repeatDescent
        ∧ k.key.timing = some ⟨now, set.l - set.p⟩ ∧ k.event = none)
      ∧ (set.d ≤ a → a < set.l → a < set.p → k = ⟨r, none, false⟩))
    ∧ (r.state = .repeatDescent → ∀ tm, r.timing = some tm →
      (set.l ≤ a → k.key.state = .sounding ∧ k.key.timing = none
        ∧ k.event = some (.on (velocity set key tm.span (elapsed now tm.start) u) true))
      ∧ (a < set.l → a < set.d → k.key.state = rest ∧ k.key.timing = none ∧ k.event = some (.off false))
      ∧ (a < set.l → set.d ≤ a → a < set.p → k.key.state = .rearmed ∧ k.key.timing = none ∧ k.event = none)
      ∧ (a < set.l → set.d ≤ a → set.p ≤ a → k = ⟨r, none, false⟩))
    ∧ (r.state = .returning →
      (a < set.u → k.key.state = .idle ∧ k.event = none)
      ∧ (set.u ≤ a → set.l ≤ a → k.key.state = .sounding
        ∧ k.event = some (.on (velocity set key (set.l - set.d) 1 u) false))
      ∧ (set.u ≤ a → a < set.l → set.d ≤ a → k.key.state = .descent
        ∧ k.key.timing = some ⟨now, set.l - set.d⟩ ∧ k.event = none)
      ∧ (set.u ≤ a → a < set.l → a < set.d → k = ⟨r, none, false⟩))

/-- R21, R22, R54: the key events of a scan completion that does not end a capture: JWR takes a KEY_ON or KEY_OFF record of each, with the new scan count; VCE takes them one after another as LIVE start requests and releases, with the LIVE context and RLC's work between two of them; and the guide matcher takes the NOTE_ONs. While a capture runs the scan makes no event (R24).
The orders among them are the operand's (log 4). -/
def Obligations.ScanHandsKeyEvents : Prop :=
  (∀ (x : Scan) (s : State), s.inReset = false → s.running = true →
    (s.cap.running = some .rest → s.cap.scans + 1 < 256) → (s.cap.running = some .bottom → s.cap.scans + 1 < 480000) →
    ∃ u, exec (.scanCompletion x) s = .next (finish u)
      ∧ (let now := s.scanCount + 1
         let soft := if (u.pedals[(2 : Fin 3)]).mode = .frozen then s.live.soft else (u.pedals[(2 : Fin 3)]).sensor.depth
         let event := fun k : Fin 88 =>
           (scanKey s.settings s.cal[keyChannel k] now k soft (scanRaw x.conv)[keyChannel k] s.keys[k]).event
         let events : List KeyEvent := (List.finRange 88).filterMap fun k => (event k).map fun e => ⟨k, e⟩
         let took := u.jwr.hand.drop s.jwr.hand.length
         u.jwr.hand.take s.jwr.hand.length = s.jwr.hand
         ∧ (s.jwr.taking = true → ∀ k,
             (∀ v rep, event k = some (.on v rep) → .record (recKeyOn k v rep now) none ∈ took)
             ∧ (∀ cal, event k = some (.off cal) → .record (recKeyOff k cal now) none ∈ took))
         ∧ (∀ r a, .record r a ∈ took → (r.kind = .keyOn ∨ r.kind = .keyOff) →
             ∃ k, (∃ v rep, event k = some (.on v rep) ∧ r = recKeyOn k v rep now)
               ∨ ∃ cal, event k = some (.off cal) ∧ r = recKeyOff k cal now)
         ∧ (∃ (es : List KeyEvent) (rail : State → State) (v : State),
             es.Perm events ∧ (rail = id ∨ rail = railScan x.lines u.keys (events.any KeyEvent.isOn))
             ∧ v.voices = s.voices ∧ v.live = s.live ∧ v.settings = s.settings ∧ v.mapCopy = s.mapCopy
             ∧ v.streams = s.streams ∧ v.stats = s.stats ∧ v.startCounter = s.startCounter
             ∧ v.fetchOrder = s.fetchOrder ∧ v.burst = s.burst ∧ v.keys = u.keys
             ∧ (x.choice.railFirst = false → v.rail.state = s.rail.state)
             ∧ (x.choice.railFirst = true → v.rail.state = u.rail.state)
             ∧ (let rise := mixKeys x.choice.riseOld (liveNoteOn s.keys) (liveNoteOn u.keys)
                let context := fun left => liveContext rise (fallKeys left (liveNoteOn s.keys) (liveNoteOn u.keys))
                let w := takeLive context rail x.choice.contextAt x.choice.railAt 0 es v
                u.voices = w.voices ∧ u.live = w.live ∧ u.stats = w.stats ∧ u.startCounter = w.startCounter
                ∧ u.fetchOrder = w.fetchOrder ∧ u.burst = w.burst))
         ∧ (∃ (es : List KeyEvent) (g : State),
             es.Perm events ∧ g.play = s.play ∧ g.settings = s.settings ∧ g.scanCount = now
             ∧ u.play = (takeStrikes es g).play)))
  ∧ (∀ (context : List KeyEvent → State → State) (rail : State → State) (at' railAt i : Nat) (e : KeyEvent)
        (es : List KeyEvent) (v : State),
      let p := if i = at' then context (e :: es) v else v
      let q := if i = railAt then rail p else p
      takeLive context rail at' railAt i (e :: es) v = takeLive context rail at' railAt (i + 1) es
        (match e.kind with
          | .on vel _ => startRequest .live e.key vel q
          | .off _ => releaseVoice .live e.key q))
  ∧ (∀ (context : List KeyEvent → State → State) (rail : State → State) (at' railAt i : Nat) (v : State),
      let p := if i ≤ at' then context [] v else v
      takeLive context rail at' railAt i [] v = if i ≤ railAt then rail p else p)
  ∧ ∀ (e : KeyEvent) (es : List KeyEvent) (g : State),
      takeStrikes [] g = g
      ∧ takeStrikes (e :: es) g = takeStrikes es
          (match e.kind with
            | .on vel _ => guideStrike e.key vel g
            | .off _ => g)

/-- R3, R17, R19, R20: the depth of a raw value, the elapsed ticks of a timing, the curve velocity and the velocity of a NOTE_ON, each by its formula, with their ranges; the depth does not fall as the raw value rises. -/
def Obligations.DepthsAndVelocitiesFollowTheFormulas : Prop :=
  (∀ (c : CalEntry) (r : Nat),
    (r ≤ c.rz → depthOf c r = 0)
    ∧ (c.rz < r → c.bt ≤ r → depthOf c r = 1023)
    ∧ (c.rz < r → r < c.bt → depthOf c r = (r - c.rz) * 1023 / (c.bt - c.rz))
    ∧ depthOf c r ≤ 1023)
  ∧ (∀ (c : CalEntry) (r r' : Nat), c.valid = true → r ≤ r' → depthOf c r ≤ depthOf c r')
  ∧ (∀ now start : Word,
      let n := (now - start).toNat
      elapsed now start = (if n = 0 then 1 else if 4095 < n then 4095 else n))
  ∧ (∀ (curve : Vector Nat 17) (i : Fin 16) (f : Nat), f < 256 →
      curveVelocity curve (256 * i.val + f) =
        (curve[i.castSucc] : Int) + Int.tdiv (((curve[i.succ] : Int) - (curve[i.castSucc] : Int)) * (f : Int)) 256)
  ∧ (∀ curve : Vector Nat 17, curveVelocity curve 4096 = (curve[(16 : Fin 17)] : Int))
  ∧ (∀ (curve : Vector Nat 17) (q : Nat), (∀ i : Fin 17, 1 ≤ curve[i] ∧ curve[i] ≤ 127) → q ≤ 4096 →
      1 ≤ curveVelocity curve q ∧ curveVelocity curve q ≤ 127)
  ∧ (∀ (set : Settings) (key : Fin 88) (span n u : Nat),
      let q := min (span * 64 / n * 4096 / set.sfull) 4096
      let v1 := curveVelocity set.curve q
      let v2 := max 1 (v1 - ((u * set.usoft / 1023 : Nat) : Int))
      (velocity set key span n u : Int) = max 1 (min 127 (v2 + set.trims[key]))
      ∧ 1 ≤ velocity set key span n u ∧ velocity set key span n u ≤ 127)

/-- R18: the speed and the normalised speed. -/
def Obligations.SpeedIsNormalised : Prop :=
  ∀ (sfull span n : Nat), 64 ≤ sfull → 1 ≤ n →
    speed span n = span * 64 / n
    ∧ normalise sfull (speed span n) = min (span * 64 / n * 4096 / sfull) 4096
    ∧ normalise sfull (speed span n) ≤ 4096
    ∧ (sfull ≤ speed span n → normalise sfull (speed span n) = 4096)
    ∧ (span ≤ 984 → speed span n ≤ 62976)

/-- R34: at each evaluation of a context its damper zone and h are computed from its damper depth. -/
def Obligations.ContextEvaluationComputesDamper : Prop :=
  ∀ (src : VoiceSource) (rise fall : KeySet) (s : State), s.settings.dlo < s.settings.dhi →
    let x := (contextOf s src).damper
    let c := contextOf (evaluateContext src rise fall s) src
    (x ≤ s.settings.dlo → c.zone = .down ∧ c.h = 0)
    ∧ (s.settings.dhi ≤ x → c.zone = .up ∧ c.h = 256)
    ∧ (s.settings.dlo < x → x < s.settings.dhi →
        c.zone = .half ∧ c.h = (x - s.settings.dlo) * 256 / (s.settings.dhi - s.settings.dlo) ∧ c.h ≤ 255)

/-! ## Captures -/

/-- R45, R46: a scan of a capture is counted and its raw values go into the accumulators; R48, R25, R31: the scan at which a rest capture completes or a bottom capture expires decides Rz and UNSTEADY, or Bt and NOT_PRESSED, of every channel, queues the table's writes, hands JWR the CAL record, and the keys and pedals leave CAPTURE and FROZEN by the new calibration; R31, R33: the new pedal depths are handed to the LIVE context, which is evaluated, from the context as the capture has kept it where the pedals are all FROZEN, as they are while a capture runs.
That the rows REST_CAPTURE_COMPLETE and BOTTOM_CAPTURE_EXPIRED are the scan completion itself at the capture's last count, and change nothing below it, is the model's reading (log 2). -/
def Obligations.CapturesTakeScans : Prop :=
  ∀ (x : Scan) (kind : CaptureKind) (s : State), s.inReset = false → s.running = true →
    s.cap.running = some kind →
    let last : Nat := match kind with
      | .rest => 256
      | .bottom => 480000
    let row : Instr := match kind with
      | .rest => .restCaptureComplete x
      | .bottom => .bottomCaptureExpired x
    let acc := fun c : Fin 96 =>
      let a := s.cap.acc[c]
      let r := (scanRaw x.conv)[c]
      match kind with
      | .rest => Accumulator.mk (a.sum + r) (Nat.min a.min r) (Nat.max a.max r)
      | .bottom => { a with max := Nat.max a.max r }
    (s.cap.scans + 1 < last →
      exec row s = .next s
      ∧ ∃ u, exec (.scanCompletion x) s = .next (finish u)
        ∧ u.cap = { s.cap with scans := s.cap.scans + 1, acc := Vector.ofFn acc } ∧ u.cal = s.cal)
    ∧ (s.cap.scans + 1 = last →
      ∃ u, exec row s = .next (finish u) ∧ exec (.scanCompletion x) s = .next (finish u)
        ∧ u.cap.running = none ∧ u.cap.scans = last ∧ u.cap.order = s.cap.order ∧ u.cap.lastKind = some kind
        ∧ (s.jwr.taking = true → .record (recCal kind
              (match kind with
                | .rest => .completed
                | .bottom => .expired)
              u.cap.updated
              (match kind with
                | .rest => u.cap.unsteady
                | .bottom => u.cap.notPressed) (s.scanCount + 1)) none ∈ u.jwr.hand)
        ∧ (kind = .rest → u.cap.lastEnd = some .completed ∧ u.cap.notPressed = s.cap.notPressed
            ∧ u.cap.updated = ((List.finRange 96).filter fun c =>
                decide (c.val ≤ 90 ∧ (s.cal[c]).rz ≠ (u.cal[c]).rz)).length
            ∧ u.cap.unsteady = ((List.finRange 96).filter fun c =>
                decide (c.val ≤ 90 ∧ (u.cal[c]).unsteady = true)).length)
        ∧ (kind = .bottom → u.cap.lastEnd = some .expired ∧ u.cap.unsteady = s.cap.unsteady
            ∧ u.cap.updated = ((List.finRange 96).filter fun c =>
                decide (c.val ≤ 90 ∧ (s.cal[c]).bt ≠ (u.cal[c]).bt)).length
            ∧ u.cap.notPressed = ((List.finRange 96).filter fun c =>
                decide (c.val ≤ 90 ∧ (u.cal[c]).notPressed = true)).length)
        ∧ (∀ c : Fin 96,
            let a := acc c
            (kind = .rest →
              (a.min + 48 < a.max → u.cal[c] = { s.cal[c] with unsteady := true })
              ∧ (a.max ≤ a.min + 48 → u.cal[c] = { s.cal[c] with unsteady := false, rz := a.sum / 256 }))
            ∧ (kind = .bottom →
              ((s.cal[c]).rz + 256 ≤ a.max → u.cal[c] = { s.cal[c] with notPressed := false, bt := a.max - 8 })
              ∧ (a.max < (s.cal[c]).rz + 256 → u.cal[c] = { s.cal[c] with notPressed := true }))
            ∧ .calEntry c.val u.cal[c] ∈ u.ord.list)
        ∧ leavesCapture (fun k => (scanRaw x.conv)[keyChannel k]) (fun p => (scanRaw x.conv)[pedalChannel p]) s u
        ∧ (let a := fun p : Fin 3 => (u.pedals[p]).sensor.depth
           u.live.damper = a 0 ∧ u.live.sostenuto = a 1 ∧ u.live.soft = a 2
           ∧ u.live.zone = damperZone s.settings u.live.damper ∧ u.live.h = damperFactor s.settings u.live.damper)
        ∧ ((∀ p : Fin 3, (s.pedals[p]).mode = .frozen) →
            liveFollows s.settings s u
            ∧ (s.live.engaged = true → u.live.engaged = false →
                ∀ i : Fin 80, (u.voices[i]).source = .live → (u.voices[i]).state ≠ .held)))

/-- R44: CAL_REST and CAL_BOTTOM start a capture: the record, the accumulators, the keys and the pedals; the order is not answered yet. R24, R22: each key in a note-on state makes a NOTE_OFF with the CAL flag, which JWR takes as a record and VCE as a release, and the glitch candidates are dropped. -/
def Obligations.CaptureStarts : Prop :=
  ∀ (seq : Half) (order : List Nat) (s : State), s.inReset = false → s.running = true →
    s.cap.running = none → s.cap.finishing = false →
    ∀ kind : CaptureKind,
      ∃ u, exec (match kind with
            | .rest => .calRest seq order
            | .bottom => .calBottom seq order) s = .next (finish u)
        ∧ u.cap.running = some kind ∧ u.cap.scans = 0 ∧ u.cap.order = some seq ∧ u.ord = s.ord
        ∧ (∀ c : Fin 96, u.cap.acc[c] = ⟨0, 4095, 0⟩)
        ∧ (∀ k : Fin 88, u.keys[k] =
            { s.keys[k] with state := .capture, timing := none, sensor := { (s.keys[k]).sensor with cand := none } })
        ∧ (∀ p : Fin 3, u.pedals[p] =
            { s.pedals[p] with mode := .frozen, wasActive := (s.pedals[p]).mode == .active,
                               sensor := { (s.pedals[p]).sensor with cand := none } })
        ∧ u.cal = s.cal ∧ u.rail = s.rail ∧ u.live = s.live ∧ u.play = s.play ∧ u.settings = s.settings
        ∧ (let sounds := fun k : Fin 88 => (s.keys[k]).state = .sounding ∨ (s.keys[k]).state = .rearmed
             ∨ (s.keys[k]).state = .repeatDescent
           let took := u.jwr.hand.drop s.jwr.hand.length
           u.jwr.hand.take s.jwr.hand.length = s.jwr.hand
           ∧ (s.jwr.taking = false → took = [])
           ∧ (s.jwr.taking = true → ∀ i, i ∈ took ↔ ∃ k, sounds k ∧ i = .record (recKeyOff k true s.scanCount) none)
           ∧ (voicesSound s.voices → ∀ i : Fin 80,
               let v := s.voices[i]
               let w := u.voices[i]
               (v.source = .live → sounds v.key →
                 (v.state = .sounding → w = { v with state := if s.live.held[v.key] then .held else .releasing })
                 ∧ (v.state = .priming → w = { v with relPending := true })
                 ∧ (v.state ≠ .sounding → v.state ≠ .priming → w = v))
               ∧ ((v.source ≠ .live ∨ ¬ sounds v.key) → w = v)))

/-- R44, R47, R49: the CAL orders that are refused, CAL_END of a bottom capture, and CAL_ABANDON; R48, R49: the CAL record of both ends, the table's writes of CAL_END, and CAL_DONE at CAL_ABANDON, which writes no entry; R25, R31: at both ends the keys and pedals leave CAPTURE and FROZEN, by the raw values they hold, and the LIVE context takes the new pedal depths and is evaluated; R37, R107: a fall there reaches the HELD live voices. -/
def Obligations.CaptureOrdersEnd : Prop :=
  ∀ (seq : Half) (order : List Nat) (s : State), s.inReset = false → s.running = true →
    let leaves := fun t : State =>
      leavesCapture (fun k => (s.keys[k]).sensor.raw) (fun p => (s.pedals[p]).sensor.raw) s t
      ∧ liveFollows s.settings s t
      ∧ (let falls := s.live.engaged = true ∧ t.live.engaged = false
         (¬ falls → t.voices = s.voices)
         ∧ (falls → ∀ i : Fin 80,
             let v := s.voices[i]
             t.voices[i] =
               (if v.source = .live ∧ v.state = .held then
                  { v with state := if (liveNoteOn t.keys)[v.key] then .sounding else .releasing }
                else v)))
    ((s.cap.running ≠ none ∨ s.cap.finishing = true) →
      (∃ t, exec (.calRest seq order) s = .next t ∧ calm t = calm s ∧ answered .cal seq .refusedState t)
      ∧ ∃ t, exec (.calBottom seq order) s = .next t ∧ calm t = calm s ∧ answered .cal seq .refusedState t)
    ∧ (s.cap.running = some .bottom →
        ∃ t, exec (.calEnd seq) s = .next (finish t) ∧ t.cap.running = none ∧ t.cap.lastKind = some .bottom
          ∧ t.cap.lastEnd = some .ended ∧ t.cap.endOrder = some seq ∧ t.cap.order = s.cap.order ∧ leaves t
          ∧ t.cap.updated = ((List.finRange 96).filter fun c =>
              decide (c.val ≤ 90 ∧ (s.cal[c]).bt ≠ (t.cal[c]).bt)).length
          ∧ t.cap.notPressed = ((List.finRange 96).filter fun c =>
              decide (c.val ≤ 90 ∧ (t.cal[c]).notPressed = true)).length
          ∧ (s.jwr.taking = true → t.jwr.hand = s.jwr.hand ++
              [.record (recCal .bottom .ended t.cap.updated t.cap.notPressed s.scanCount) none])
          ∧ ∀ c : Fin 96,
              let m := (s.cap.acc[c]).max
              .calEntry c.val t.cal[c] ∈ t.ord.list ∧
              ((s.cal[c]).rz + 256 ≤ m → t.cal[c] = { s.cal[c] with notPressed := false, bt := m - 8 })
              ∧ (m < (s.cal[c]).rz + 256 → t.cal[c] = { s.cal[c] with notPressed := true }))
    ∧ (s.cap.running ≠ some .bottom →
        ∃ t, exec (.calEnd seq) s = .next t ∧ calm t = calm s ∧ answered .cal seq .refusedState t)
    ∧ (∀ kind, s.cap.running = some kind →
        ∃ t, exec (.calAbandon seq) s = .next (finish t) ∧ t.cap.running = none ∧ t.cap.order = none
          ∧ t.cap.lastKind = some kind ∧ t.cap.lastEnd = some .abandoned ∧ t.cal = s.cal ∧ leaves t
          ∧ t.cap.updated = s.cap.updated ∧ t.cap.unsteady = s.cap.unsteady ∧ t.cap.notPressed = s.cap.notPressed
          ∧ answered .cal seq .completed t ∧ noticed .calDone t = true
          ∧ (∀ c v, .calEntry c v ∈ t.ord.list → .calEntry c v ∈ s.ord.list)
          ∧ (s.jwr.taking = true → t.jwr.hand = s.jwr.hand ++
              [.record (recCal kind .abandoned 0 0 s.scanCount) none]))
    ∧ (s.cap.running = none →
        ∃ t, exec (.calAbandon seq) s = .next t ∧ calm t = calm s ∧ answered .cal seq .refusedState t)

/-! ## Rail -/

/-- R68, R71, R77, R81, R83, R86: each row that names a special scan completion answers what SCAN_COMPLETION answers for that scan, and the rail record then shows the row's event (log 2); a settle countdown that RLC's evaluation brings to 0 before a NOTE_ON of the same scan may show its restart (R71, R72).
R86: RLC's work of a scan that ends no capture is `railScan` (RailTickCounts says what it does), on the keys before KSC's work or after it, and the scan's NOTE_ONs restart the settle countdown before it or after it. -/
def Obligations.RailEventsAreScanCompletions : Prop :=
  ∀ (x : Scan) (s : State), s.inReset = false →
    (s.running = true →
      (s.cap.running = some .rest → s.cap.scans + 1 < 256) → (s.cap.running = some .bottom → s.cap.scans + 1 < 480000) →
      ∃ u, exec (.scanCompletion x) s = .next (finish u)
        ∧ (let v := { s with scanCount := s.scanCount + 1 }
           let soft := if (u.pedals[(2 : Fin 3)]).mode = .frozen then s.live.soft else (u.pedals[(2 : Fin 3)]).sensor.depth
           let strikes := ∃ (k : Fin 88) (vel : Nat) (rep : Bool),
             (scanKey s.settings s.cal[keyChannel k] (s.scanCount + 1) k soft (scanRaw x.conv)[keyChannel k]
               s.keys[k]).event = some (.on vel rep)
           (x.choice.railFirst = true → ¬ strikes → u.rail = (railScan x.lines s.keys false v).rail)
           ∧ (x.choice.railFirst = true → strikes → u.rail = (restartSettle (railScan x.lines s.keys false v)).rail)
           ∧ (x.choice.railFirst = false → ¬ strikes → u.rail = (railScan x.lines u.keys false v).rail)
           ∧ (x.choice.railFirst = false → strikes → u.rail = (railScan x.lines u.keys true (restartSettle v)).rail)))
    ∧
    (settled x s (scanWork x s) = true →
      ∃ t, exec (.settleCountdownExpiry x) s = .next t ∧ exec (.scanCompletion x) s = .next t
        ∧ (t.rail.settle = 0 ∨ (x.choice.railFirst = true ∧ s.rail.settle = 1)))
    ∧ (isRailTick s = true →
      ∃ t, exec (.railTick x) s = .next t ∧ exec (.scanCompletion x) s = .next t
        ∧ t.rail.inputs = s.rail.inputs.sample x.lines)
    ∧ (∀ i, filterChanged i s (scanWork x s) = true →
      ∃ t, exec (.inputFilterChange i x) s = .next t ∧ exec (.scanCompletion x) s = .next t
        ∧ (t.rail.inputs.get i).level = !(s.rail.inputs.get i).level)
    ∧ (stalledByTravel s (scanWork x s) = true →
      ∃ t, exec (.travelLimitStall x) s = .next t ∧ exec (.scanCompletion x) s = .next t
        ∧ t.rail.state = .stalled ∧ t.rail.fault = .travel)
    ∧ (endedByHold s (scanWork x s) = true →
      ∃ t, exec (.holdLimitExpiry x) s = .next t ∧ exec (.scanCompletion x) s = .next t
        ∧ t.rail.state.moving = false ∧ t.rail.stop = .pauseLimit)
    ∧ (dwellEnded s (scanWork x s) = true →
      ∃ t, exec (.reversalDwellEnd x) s = .next t ∧ exec (.scanCompletion x) s = .next t
        ∧ t.rail.state ≠ .reversing ∧ t.rail.state.moving = true)

/-- R86: RLC's work at a scan completion, in its order, each step on the state the step before left: the settle countdown and the hammer-quiet condition with pause and resume (R71, R72, R79, R80), and at a rail tick the sampling with the lever's request (R68, R73), the tests (both switches closed, arrival, drift: R84, R82, R85), which leave the state alone where they fail, and the counts (travel used, pause time, dwell time, below their limits and at them: R83, R81, R77, R76); R70: the RAIL record and the refresh of a state change. -/
def Obligations.RailTickCounts : Prop :=
  ∀ s : State,
    (∀ l keys struck, railScan l keys struck s =
      if s.scanCount.toNat % 8 = 0 then
        countStep (driftStep (arrivalStep (switchStep (sampleStep l (quietStep keys struck s)))))
      else quietStep keys struck s)
    ∧ (restartSettle s = { s with rail.settle := if s.rail.state.moving then (limitsOf s).settle else s.settings.settle })
    ∧ (∀ (keys : Vector KeyRec 88) (struck : Bool),
        let n := if struck then s.rail.settle else s.rail.settle - 1
        ∃ q : Bool,
          (q = true ↔ (∀ k : Fin 88, (keys[k]).state ≠ .descent ∧ (keys[k]).state ≠ .repeatDescent) ∧ n = 0
            ∧ s.cap.running = none)
          ∧ (let r := { s.rail with settle := n, quiet := q }
             (s.rail.state.driving = true → q = true → quietStep keys struck s = { s with rail := r })
             ∧ (s.rail.state.driving = true → q = false →
                 quietStep keys struck s = railTo { r with state := .paused, pause := 0 } s)
             ∧ (∀ d, s.rail.state = .paused → s.rail.dir = some d → q = true →
                 quietStep keys struck s = railTo
                   { r with state := if d = .inward then .engaging else .releasing, pause := 0 } s)
             ∧ (s.rail.state = .paused → q = false → quietStep keys struck s = { s with rail := r })
             ∧ (s.rail.state.driving = false → s.rail.state ≠ .paused → quietStep keys struck s = { s with rail := r })))
    ∧ (∀ r : Rail,
        (r.state = s.rail.state → railTo r s = { s with rail := r })
        ∧ (r.state ≠ s.rail.state → railTo r s =
            { s with rail := r, ord.statusCall := true,
                     jwr.hand := if s.jwr.taking then s.jwr.hand ++
                       [.record ⟨.rail, BitVec.ofNat 8 r.state.code, BitVec.ofNat 16 r.stop.code, 0, s.scanCount⟩ none]
                       else s.jwr.hand }))
    ∧ (∀ (len : Nat) (level : Bool) (f : Filtered),
        (level = f.level → f.sample len level = ⟨f.level, 0⟩)
        ∧ (level ≠ f.level → f.count + 1 < len → f.sample len level = ⟨f.level, f.count + 1⟩)
        ∧ (level ≠ f.level → len ≤ f.count + 1 → f.sample len level = ⟨level, 0⟩))
    ∧ (∀ l : Lines,
        let i : Inputs := ⟨s.rail.inputs.home.sample 10 l.swHome, s.rail.inputs.stop.sample 10 l.swStop,
          s.rail.inputs.lever.sample 20 l.lever, s.rail.inputs.svc.sample 20 l.svc⟩
        let t := { s with rail.inputs := i }
        (i.lever.level ≠ s.rail.inputs.lever.level → s.settings.leverEnable = true →
          sampleStep l s = (request (if i.lever.level then .silent else .acoustic) .lever t).1)
        ∧ ((i.lever.level = s.rail.inputs.lever.level ∨ s.settings.leverEnable = false) → sampleStep l s = t))
    ∧ (∀ target : Target,
        (request target .lever s).2 = (request target .host s).2
        ∧ ((request target .host s).2 = .accepted →
            (request target .lever s).1 = { (request target .host s).1 with rail.source := .lever })
        ∧ ((request target .host s).2 ≠ .accepted → (request target .lever s).1 = s))
    ∧
    (s.rail.state.moving = true → s.rail.inputs.atTarget s.rail.target = true →
      arrivalStep s = notice .railArrived (railTo
          { s.rail with state := if s.rail.target = .silent then .engaged else .retracted, dir := none, limits := none,
                        pause := 0, dwell := 0, stop := .arrived } s)
        ∧ noticed .railArrived (arrivalStep s) = true)
    ∧ ((s.rail.state.moving = false ∨ s.rail.inputs.atTarget s.rail.target = false) → arrivalStep s = s)
    ∧ (s.rail.state ≠ .stalled → s.rail.inputs.derived = .stalled →
      switchStep s = notice .railFault (railTo
          { s.rail with state := .stalled, dir := none, limits := none, fault := .switch, stop := .switch,
                        pause := 0, dwell := 0 } s)
        ∧ noticed .railFault (switchStep s) = true)
    ∧ ((s.rail.state = .stalled ∨ s.rail.inputs.derived ≠ .stalled) → switchStep s = s)
    ∧ (s.rail.state.driving = true → (limitsOf s).travel ≤ s.rail.travel + 1 →
      (countStep s).rail =
          { s.rail with state := .stalled, dir := none, limits := none, fault := .travel, stop := .travel,
                        pause := 0, dwell := 0, travel := s.rail.travel + 1 }
        ∧ noticed .railFault (countStep s) = true)
    ∧ (s.rail.state.driving = true → s.rail.travel + 1 < (limitsOf s).travel →
      (countStep s).rail = { s.rail with travel := s.rail.travel + 1 })
    ∧ (s.rail.state = .paused → (limitsOf s).hold ≤ s.rail.pause + 1 → s.rail.inputs.derived ≠ .stalled →
      countStep s = notice .railPartial (railTo
          { s.rail with state := s.rail.inputs.derived, dir := none, limits := none, pause := 0, dwell := 0,
                        stop := .pauseLimit } s)
        ∧ noticed .railPartial (countStep s) = true)
    ∧ (s.rail.state = .paused → (limitsOf s).hold ≤ s.rail.pause + 1 → s.rail.inputs.derived = .stalled →
      countStep s = notice .railFault (railTo
          { s.rail with state := .stalled, dir := none, limits := none, fault := .switch, stop := .switch,
                        pause := 0, dwell := 0 } s))
    ∧ (s.rail.state = .paused → s.rail.pause + 1 < (limitsOf s).hold →
      (countStep s).rail = { s.rail with pause := s.rail.pause + 1 })
    ∧ (s.rail.state = .reversing → (limitsOf s).dwell ≤ s.rail.dwell + 1 →
      countStep s = railTo
          { s.rail with dir := some s.rail.target.direction, travel := 0, dwell := 0, pause := 0,
                        state := if s.rail.quiet then s.rail.target.direction.running else .paused } s)
    ∧ (s.rail.state = .reversing → s.rail.dwell + 1 < (limitsOf s).dwell →
      (countStep s).rail = { s.rail with dwell := s.rail.dwell + 1 })
    ∧ (s.rail.state.moving = false → countStep s = s)
    ∧ (s.rail.state.resting = true → s.rail.inputs.derived ≠ s.rail.state → s.rail.inputs.derived ≠ .stalled →
      (driftStep s).rail = { s.rail with state := s.rail.inputs.derived, stop := .drift }
        ∧ (s.rail.inputs.derived = .part → noticed .railPartial (driftStep s) = true)
        ∧ (s.rail.inputs.derived ≠ .part → (driftStep s).ord.summary = s.ord.summary))
    ∧ ((s.rail.state.resting = false ∨ s.rail.inputs.derived = s.rail.state ∨ s.rail.inputs.derived = .stalled) →
      driftStep s = s)

/-- R74, R75: MOVE_SILENT and MOVE_ACOUSTIC from a rest state with the permission FREE start a move, and only the rail record of the calm part changes; R73, R74, R77, R78: a move order is the host's request, and the other answers to it. -/
def Obligations.MoveOrdersAct : Prop :=
  (∀ (target : Target) (seq : Half) (s : State), s.inReset = false → s.running = true →
    s.rail.state.resting = true → s.rail.perm = .free → standsAt s.rail.state target = false →
    ∃ t, exec (match target with
          | .silent => .moveSilent seq
          | .acoustic => .moveAcoustic seq) s = .next t
      ∧ answered .rail seq .accepted t
      ∧ calm t = { calm s with rail :=
          { s.rail with
            target := target, dir := some target.direction,
            limits := some ⟨s.settings.travelLimit, s.settings.holdLimit, s.settings.dwellLimit, s.settings.settle⟩,
            travel := 0, pause := 0, dwell := 0, stop := .none, source := .host,
            state := if s.rail.quiet then target.direction.running else .paused } })
  ∧ (∀ (target : Target) (seq : Half) (s : State), s.inReset = false → s.running = true →
    ∃ t, exec (match target with
          | .silent => .moveSilent seq
          | .acoustic => .moveAcoustic seq) s = .next t
      ∧ t = finish (answer .rail seq (request target .host s).2 (request target .host s).1)
      ∧ (s.rail.state = .stalled → calm t = calm s ∧ answered .rail seq .refusedFault t)
      ∧ (standsAt s.rail.state target = true → calm t = calm s ∧ answered .rail seq .completed t)
      ∧ (s.rail.state.resting = true → standsAt s.rail.state target = false → s.rail.perm ≠ .free →
          calm t = calm s ∧ answered .rail seq .refusedState t)
      ∧ (s.rail.state.driving = true → s.rail.target = target →
          calm t = { calm s with rail := { s.rail with source := .host } } ∧ answered .rail seq .accepted t)
      ∧ (s.rail.state.driving = true → s.rail.target ≠ target →
          calm t = { calm s with rail :=
            { s.rail with state := .reversing, target := target, dwell := 0, source := .host } }
          ∧ answered .rail seq .accepted t)
      ∧ (s.rail.state = .paused → s.rail.target = target →
          calm t = { calm s with rail := { s.rail with source := .host } } ∧ answered .rail seq .accepted t)
      ∧ (s.rail.state = .paused → s.rail.target ≠ target →
          calm t = { calm s with rail :=
            { s.rail with target := target, dir := some target.direction, travel := 0, source := .host } }
          ∧ answered .rail seq .accepted t)
      ∧ (s.rail.state = .reversing →
          calm t = { calm s with rail := { s.rail with target := target, source := .host } }
          ∧ answered .rail seq .accepted t))

/-- R87 to R89: FREE, HOLD, PIN and CLEAR_FAULT; R88, R76: HOLD or PIN ends a move in flight short. -/
def Obligations.PermissionAndFaultOrders : Prop :=
  (∀ (p : Permission) (seq : Half) (s : State), s.inReset = false → s.running = true →
    ∃ t, exec (match p with
          | .free => .free seq
          | .held => .hold seq
          | .pinned => .pin seq) s = .next t
      ∧ (p ≠ .pinned → s.rail.perm = .pinned → s.rail.inputs.svc.level = true →
          calm t = calm s ∧ answered .rail seq .refusedState t)
      ∧ ((p = .pinned ∨ s.rail.perm ≠ .pinned ∨ s.rail.inputs.svc.level = false) →
          t.rail.perm = p ∧ answered .rail seq .completed t
          ∧ ((s.rail.state.moving = false ∨ s.rail.perm ≠ .free ∨ p = .free) →
              calm t = { calm s with rail := { s.rail with perm := p } })
          ∧ (s.rail.state.moving = true → s.rail.perm = .free → p ≠ .free → s.rail.inputs.derived ≠ .stalled →
              calm t = { calm s with rail :=
                { s.rail with perm := p, state := s.rail.inputs.derived, dir := none, limits := none, pause := 0,
                              dwell := 0, stop := .held } }
              ∧ noticed .railPartial t = true)
          ∧ (s.rail.state.moving = true → s.rail.perm = .free → p ≠ .free → s.rail.inputs.derived = .stalled →
              calm t = { calm s with rail :=
                { s.rail with perm := p, state := .stalled, dir := none, limits := none, pause := 0,
                              dwell := 0, fault := .switch, stop := .switch } }
              ∧ noticed .railFault t = true)))
  ∧ ∀ (seq : Half) (s : State), s.inReset = false → s.running = true →
    ∃ t, exec (.clearFault seq) s = .next t
      ∧ (s.rail.state ≠ .stalled → calm t = calm s ∧ answered .rail seq .refusedState t)
      ∧ (s.rail.state = .stalled → s.rail.inputs.derived = .stalled →
          calm t = calm s ∧ answered .rail seq .refusedFault t)
      ∧ (s.rail.state = .stalled → s.rail.inputs.derived ≠ .stalled →
          calm t = { calm s with rail :=
            { s.rail with state := s.rail.inputs.derived, fault := .none, stop := .none, travel := 0 } }
          ∧ answered .rail seq .completed t)

/-! ## Pedals -/

/-- R29, R32, R33: a scan completion of the run that does not end a capture gives every pedal record its step by its mode, hands the depths of the pedals that are not FROZEN to the LIVE context, and makes the journal decisions; R34, R36, R37: the LIVE context's zone and h, and its sostenuto's rise, which takes each key as it stood before or after the scan (an operand, log 4), or its fall, which leaves no live voice HELD. -/
def Obligations.ScanEvaluatesPedals : Prop :=
  ∀ (x : Scan) (s : State), s.inReset = false → s.running = true →
    (s.cap.running = some .rest → s.cap.scans + 1 < 256) → (s.cap.running = some .bottom → s.cap.scans + 1 < 480000) →
    ∃ u, exec (.scanCompletion x) s = .next (finish u)
      ∧ (∀ p : Fin 3,
          let r := s.pedals[p]
          let c := s.cal[pedalChannel p]
          let raw := (scanRaw x.conv)[pedalChannel p]
          let f := filterDepth s.settings.jump s.settings.confirm (depthOf c raw) { r.sensor with raw := raw }
          let q := u.pedals[p]
          let a := q.sensor.depth
          let journals := q.mode ≠ .frozen ∧ s.settings.pedalJournal = true
            ∧ (s.settings.pedalStep ≤ (a - r.lastDepth) + (r.lastDepth - a) ∨ (p = 0 ∧ u.live.zone ≠ s.lastZone))
          (r.mode = .active → q.mode = .active ∧ q.sensor = f.sensor ∧ (f.fault = true → noticed .keyFault u = true))
          ∧ (r.mode = .disabled → c.rz + 256 ≤ c.bt →
              q.mode = .active ∧ q.sensor = { r.sensor with raw := raw, depth := depthOf c raw, cand := none })
          ∧ (r.mode = .disabled → c.bt < c.rz + 256 →
              q.mode = .disabled ∧ q.sensor = { r.sensor with raw := raw, depth := 0 })
          ∧ (r.mode = .frozen → q = { r with sensor.raw := raw })
          ∧ (journals → q.lastDepth = a ∧ (p = 0 → u.lastZone = u.live.zone)
              ∧ (s.jwr.taking = true → .record (recPedal p a (s.scanCount + 1)) none ∈ u.jwr.hand))
          ∧ (¬ journals → q.lastDepth = r.lastDepth ∧ (p = 0 → u.lastZone = s.lastZone)))
      ∧ (let depth := fun (p : Fin 3) (old : Nat) =>
           if (u.pedals[p]).mode = .frozen then old else (u.pedals[p]).sensor.depth
         u.live.damper = depth 0 s.live.damper ∧ u.live.sostenuto = depth 1 s.live.sostenuto
           ∧ u.live.soft = depth 2 s.live.soft)
      ∧ (let a := u.live.sostenuto
         let frozen := ∀ p : Fin 3, (u.pedals[p]).mode = .frozen
         let sounds := fun r : KeyRec => r.state = .sounding ∨ r.state = .rearmed ∨ r.state = .repeatDescent
         (frozen → u.live = s.live)
         ∧ (¬ frozen → u.live.zone = damperZone s.settings u.live.damper ∧ u.live.h = damperFactor s.settings u.live.damper
            ∧ (s.live.engaged = false → a < s.settings.sOn → u.live.engaged = false ∧ u.live.held = s.live.held)
            ∧ (s.live.engaged = false → s.settings.sOn ≤ a → u.live.engaged = true ∧ ∀ k : Fin 88,
                (k.val ∈ x.choice.riseOld → (u.live.held[k] = true ↔ sounds s.keys[k]))
                ∧ (k.val ∉ x.choice.riseOld → (u.live.held[k] = true ↔ sounds u.keys[k])))
            ∧ (s.live.engaged = true → s.settings.sOff ≤ a → u.live.engaged = true ∧ u.live.held = s.live.held)
            ∧ (s.live.engaged = true → a < s.settings.sOff → u.live.engaged = false ∧ u.live.held = KeySet.none
                ∧ ∀ i : Fin 80, (u.voices[i]).source = .live → (u.voices[i]).state ≠ .held)))

/-! ## The end of a command -/

/-- What every command ends with: JWR takes the items of its hand from the front while it has no store access to make (R56), a start sequence that waited for it goes on (R191), a status refresh that was called for takes its copy (R66), and the store is granted (R185). That JWR's items wait in one hand (log 10), that a read mark among them is tested when its turn comes (log 66), that a start sequence waits for JWR (log 11), and that a called refresh is made at the command's end (log 14) are the model's readings.
R175, R176: it leaves the calm part, the voice table, its fetching and the flight of a burst as they are, and keeps the answers and page statuses that wait to be written, the trigger flags, and every notice.
R185: an access in progress stays; with none, the store is granted to an aged link port that presents a word, and otherwise to the first of SFU, ORD, JWR, SCR and the link port that presents an access. -/
def Obligations.EndOfCommandKeepsRecords : Prop :=
  ∀ u : State, calm (finish u) = calm u
    ∧ (finish u).voices = u.voices ∧ (finish u).fetchOrder = u.fetchOrder ∧ (finish u).burst = u.burst
    ∧ (∀ slot seq r, answered slot seq r u → answered slot seq r (finish u))
    ∧ (∀ v, .pageStatus v ∈ u.ord.list → .pageStatus v ∈ (finish u).ord.list)
    ∧ (finish u).ord.triggers = u.ord.triggers
    ∧ (∀ n, noticed n u = true → noticed n (finish u) = true)
    ∧ (∀ r, u.busy = some r → (finish u).busy = some r)
    ∧ (u.busy = none →
        let f := finish u
        (f.link.aged = true → f.link.request ≠ none → f.busy = some .link)
        ∧ (f.link.aged = false ∨ f.link.request = none →
            (f.burst ≠ none → f.busy = some .sfu)
            ∧ (f.burst = none → f.ord.list ≠ [] → f.busy = some .ord)
            ∧ (f.burst = none → f.ord.list = [] → f.jwr.op ≠ .idle → f.busy = some .jwr)
            ∧ (f.burst = none → f.ord.list = [] → f.jwr.op = .idle → f.scr.read ≠ none → f.busy = some .scr)
            ∧ (f.burst = none → f.ord.list = [] → f.jwr.op = .idle → f.scr.read = none → f.link.request ≠ none →
                f.busy = some .link)
            ∧ (f.burst = none → f.ord.list = [] → f.jwr.op = .idle → f.scr.read = none → f.link.request = none →
                f.busy = none)))
    ∧ finish u = grant (callStatus (beginStart (takeItems u.jwr.hand u)))
    ∧ (takeItems [] u = { u with jwr.hand := [] })
    ∧ (∀ i is, (u.jwr.op = .idle → takeItems (i :: is) u = takeItems is (takeItem i u))
        ∧ (u.jwr.op ≠ .idle → takeItems (i :: is) u = { u with jwr.hand := i :: is }))
    ∧ ((finish u).jwr.op = .idle → (finish u).jwr.hand = [])
    ∧ (u.jwr.op ≠ .idle → (finish u).jwr = u.jwr)
    ∧ (finish u).jwr.hand <:+ u.jwr.hand

/-! ## Playback orders -/

/-- R151, R134, R140, R172: START, and ORD's read of the first-block offset that it queues: the reader then reads the header of that block, or playback ends at a region fault.
That START queues that read of ORD, and the reader waits for it (log 13), that the write of the answer is queued before it (log 62) and the summary write of PLAY_STATE behind it (log 63), and that a region fault keeps the loop anchor (log 29) are the model's readings. -/
def Obligations.StartPlaysFromTheBeginning : Prop :=
  (∀ (seq : Half) (s : State), s.inReset = false → s.running = true →
    ∃ u, exec (.start seq) s = .next (finish u) ∧ answered .play seq .completed u
      ∧ calm u = { calm s with
          playback := Context.reset
          scr := { s.scr with queue := [], serial := s.scr.serial + 1, state := .reading, block := none,
                              header := none, index := 0, lastDue := 0 }
          play := { s.play with state := .playing, position := 0, remainder := 0, skipped := 0, seek := none,
                                held := KeySet.none, prompts := [], anchor := none, endCause := .none } }
      ∧ u.store = s.store ∧ u.jwr = s.jwr ∧ noPlaybackVoice u ∧ sendsToFading (· == .playback) s u
      ∧ u.ord.statusCall = true
      ∧ (∃ l, u.ord.list = s.ord.list ++ (.answer .play seq .completed :: .firstBlock (s.scr.serial + 1) :: l))
      ∧ (s.play.state ≠ .playing → noticed .playState u = true))
  ∧ ∀ s : State, s.scr.state = .reading → s.scr.block = none → s.scr.header = none → s.scr.queue = [] →
    let first := (areaWord s offFirstBlock).toNat / 8 * 8
    let t := takeFirstBlock s.scr.serial s
    (∀ n, n ≠ s.scr.serial → takeFirstBlock n s = s)
    ∧ t.store = s.store ∧ t.jwr = s.jwr
    ∧ (∀ r, s.scr.read = some r → t = { s with scr := { s.scr with firstBlock := first, block := some first } })
    ∧ (s.scr.read = none → first + 8 ≤ s.ord.regions.score.len →
        t = { s with scr := { s.scr with firstBlock := first, block := some first,
                                         read := some ⟨s.scr.serial, .header, first, s.scr.index⟩ } })
    ∧ (s.scr.read = none → s.ord.regions.score.len < first + 8 →
        calm t = { calm s with
          scr := { s.scr with firstBlock := first, serial := s.scr.serial + 1, state := .idle, block := none }
          play := { s.play with state := .ended, endCause := .region, held := KeySet.none, prompts := [], seek := none } }
        ∧ t.ord.regionFault = ⟨.score, first, min (s.ord.regionFault.count + 1) 65535⟩
        ∧ noticed .regionFault t = true
        ∧ (∀ m q, s.play.seek = some ⟨m, some q⟩ → answered .play q .notFound t))

/-- R152: STOP; R153 to R155: PAUSE and RESUME; TEMPO and TRACKS, whose argument's bytes hold the percentage and the four mode codes (12.2). -/
def Obligations.StopPauseResumeTempoTracks : Prop :=
  (∀ (seq : Half) (s : State), s.inReset = false → s.running = true →
    ∃ u, exec (.stop seq) s = .next (finish u) ∧ answered .play seq .completed u
      ∧ calm u = { calm s with
          playback := Context.reset
          scr := { s.scr with queue := [], serial := s.scr.serial + 1, state := .idle, block := none, header := none }
          play := { s.play with state := .stopped, seek := none, prompts := [], held := KeySet.none, anchor := none,
                                loop := { s.play.loop with armed := false, count := 0 } } }
      ∧ u.store = s.store ∧ u.jwr = s.jwr ∧ noPlaybackVoice u ∧ sendsToFading (· == .playback) s u
      ∧ (s.play.state ≠ .stopped → noticed .playState u = true))
  ∧ ((∀ (seq : Half) (s : State), s.inReset = false → s.running = true →
    ((s.play.state = .playing ∨ s.play.state = .stalled ∨ s.play.state = .waiting) →
      ∃ u, exec (.pause seq) s = .next (finish u) ∧ answered .play seq .completed u
        ∧ calm u = { calm s with play := { s.play with state := .paused } } ∧ u.jwr = s.jwr
        ∧ noticed .playState u = true
        ∧ ∀ i : Fin 80,
            let v := s.voices[i]
            u.voices[i] =
              (if v.source = .playback ∧ (v.state = .sounding ∨ v.state = .held) then { v with state := .releasing }
               else if v.source = .playback ∧ v.state = .priming then { v with relPending := true }
               else v))
    ∧ (s.play.state ≠ .playing → s.play.state ≠ .stalled → s.play.state ≠ .waiting →
      ∃ u, exec (.pause seq) s = .next (finish u) ∧ answered .play seq .refusedState u ∧ calm u = calm s
        ∧ u.voices = s.voices ∧ u.jwr = s.jwr)
    ∧ (s.play.state = .paused →
      ∃ u, exec (.resume seq) s = .next (finish u) ∧ answered .play seq .completed u
        ∧ calm u = { calm s with play := { s.play with state := .playing } }
        ∧ u.voices = s.voices ∧ u.jwr = s.jwr ∧ noticed .playState u = true)
    ∧ (s.play.state ≠ .paused →
      ∃ u, exec (.resume seq) s = .next (finish u) ∧ answered .play seq .refusedState u ∧ calm u = calm s
        ∧ u.voices = s.voices ∧ u.jwr = s.jwr))
  ∧ ∀ (seq : Half) (arg : Word) (s : State), s.inReset = false → s.running = true →
    (∃ t, exec (.tempo seq arg) s = .next t ∧ answered .play seq .completed t
      ∧ calm t = { calm s with play := { s.play with tempo := max 25 (min 200 (arg.toNat % 65536)) } })
    ∧ (∀ v : Vector TrackMode 4, (∀ i : Fin 4, (v[i]).code = argByte arg i.val) →
        ∃ t, exec (.tracks seq arg) s = .next t ∧ answered .play seq .completed t
          ∧ calm t = { calm s with play := { s.play with tracks := v } })
    ∧ ((∃ i : Fin 4, ∀ m : TrackMode, m.code ≠ argByte arg i.val) →
        ∃ t, exec (.tracks seq arg) s = .next t ∧ answered .play seq .refusedArgument t ∧ calm t = calm s))

/-! ## Voices -/

/-- R99 to R105, R109, R110: what a start request does (the live gate, the layer, the restrike, the allocation, the victim of a steal, the new voice), what a release does, and the voice that an idle SFU serves; R111: a burst outside SAMPLES is not made, its voice becomes FREE with a region fault, and SFU chooses again until a burst is in flight or no voice waits. -/
def Obligations.StartRequestsAndReleases : Prop :=
  ∀ (src : VoiceSource) (key : Fin 88) (v : Nat) (s : State),
    let mine := fun i : Fin 80 => (s.voices[i]).state.active = true ∧ (s.voices[i]).source = src ∧ (s.voices[i]).key = key
    let passes := src = .playback ∨ s.rail.state = .engaged ∨ s.settings.monitor = true
    let layer := ((s.mapCopy[key]).find? fun l => decide (v ≤ l.top)).or (s.mapCopy[key]).getLast?
    let r := restrike src key s
    let t := startRequest src key v s
    let n := (voiceIds.filter fun i => (r.voices[i]).state.active && (r.voices[i]).source == .playback).length
    let open' := src = .live ∨ n < 80 - s.settings.reserve
    let may := voiceIds.filter fun i =>
      decide open' && (src == .live || (r.voices[i]).source == .playback)
        || !decide open' && (r.voices[i]).state.active && (r.voices[i]).source == .playback
    let free := fun i : Fin 80 => open' ∧ (r.voices[i]).state = .free ∧ ∀ j, j < i → (r.voices[j]).state ≠ .free
    let made := fun (l : Layer) (i : Fin 80) (steals : Nat) =>
      t.startCounter = s.startCounter + 1 ∧ t.stats.starts = min (s.stats.starts + 1) 65535 ∧ t.stats.steals = steals
        ∧ t.stats.silents = s.stats.silents
        ∧ (0 < l.length → l.offset + 4 * l.length ≤ s.streams.len → t.voices[i] =
            ⟨.priming, src, key, l, min 32767 (v * v * 32767 / 16129 * l.trim / 128), 32767, s.startCounter, 0, [], true, false⟩)
    (¬ passes → t = s)
    ∧ (passes → layer = none → t = { s with stats.silents := min (s.stats.silents + 1) 65535 })
    ∧ (voicesSound s.voices → ∀ i, mine i →
        r.stats = { s.stats with restrikes := min (s.stats.restrikes + 1) 65535 }
        ∧ (∀ j, j ≠ i → r.voices[j] = s.voices[j])
        ∧ r.voices[i] = (if (s.voices[i]).state = .priming then
            { s.voices[i] with state := .free, buffer := [], pending := false, relPending := false }
          else { s.voices[i] with state := .fading, relPending := false }))
    ∧ ((∀ i, ¬ mine i) → r = s)
    ∧ (∀ l, passes → layer = some l →
        (∀ i, free i → made l i s.stats.steals)
        ∧ (∀ i, (∀ j, ¬ free j) → victim r may = some i → made l i (min (s.stats.steals + 1) 65535))
        ∧ ((∀ j, ¬ free j) → victim r may = none → t = { r with stats.silents := min (r.stats.silents + 1) 65535 }))
    ∧ (∀ i, victim r may = some i → i ∈ may ∧ (r.voices[i]).state ≠ .free
        ∧ ∀ j ∈ may,
            let x := r.voices[i]
            let y := r.voices[j]
            (y.state = .fading → x.state = .fading ∧ x.env ≤ y.env ∧ (x.env = y.env → i ≤ j))
            ∧ (y.state = .releasing → x.state = .fading ∨ (x.state = .releasing ∧ x.env ≤ y.env ∧ (x.env = y.env → i ≤ j)))
            ∧ (y.state = .held → x.state = .fading ∨ x.state = .releasing
                ∨ (x.state = .held ∧ x.env ≤ y.env ∧ (x.env = y.env → i ≤ j)))
            ∧ (y.state = .sounding → x.state ≠ .priming ∧
                (x.state = .sounding → (s.startCounter - y.serial).toNat ≤ (s.startCounter - x.serial).toNat))
            ∧ (y.state = .priming → x.state = .priming →
                (s.startCounter - y.serial).toNat ≤ (s.startCounter - x.serial).toNat))
    ∧ (victim r may = none ↔ ∀ j ∈ may, (r.voices[j]).state = .free)
    ∧ ((∀ i, ¬ mine i) → releaseVoice src key s = s)
    ∧ (voicesSound s.voices → ∀ i, mine i →
        let inSet := (match src with | .live => s.live.held | .playback => s.playback.held)[key]
        releaseVoice src key s = setVoice i
          (match (s.voices[i]).state with
            | .priming => { s.voices[i] with relPending := true }
            | .sounding => { s.voices[i] with state := if inSet then .held else .releasing }
            | _ => s.voices[i]) s)
    ∧ (s.burst ≠ none → (fetchNext s).burst = s.burst)
    ∧ (let joins := fun i : Fin 80 => (s.voices[i]).state ≠ .free ∧ (s.voices[i]).buffer.length ≤ 128
         ∧ (s.voices[i]).pos + (s.voices[i]).buffer.length < (s.voices[i]).layer.length ∧ (s.voices[i]).pending = false
       let waits := fun i : Fin 80 => i ∈ s.fetchOrder ∨ joins i
       ∀ i, s.burst = none → waits i →
        (∀ j, waits j → (s.voices[i]).buffer.length < (s.voices[j]).buffer.length
          ∨ ((s.voices[i]).buffer.length = (s.voices[j]).buffer.length ∧ i ≤ j)) →
        let w := s.voices[i]
        let first := w.pos + w.buffer.length
        let size := min 64 (w.layer.length - first)
        w.layer.offset + 4 * first + 4 * size ≤ s.streams.len →
        (fetchNext s).burst = some ⟨i, w.serial, first, size, s.streams.base + (w.layer.offset + 4 * first)⟩
          ∧ ∀ j, (joins j → (fetchNext s).voices[j] = { s.voices[j] with pending := true })
            ∧ (¬ joins j → (fetchNext s).voices[j] = s.voices[j]))
    ∧ (let joins := fun i : Fin 80 => (s.voices[i]).state ≠ .free ∧ (s.voices[i]).buffer.length ≤ 128
         ∧ (s.voices[i]).pos + (s.voices[i]).buffer.length < (s.voices[i]).layer.length ∧ (s.voices[i]).pending = false
       let waits := fun i : Fin 80 => i ∈ s.fetchOrder ∨ joins i
       let f := fetchNext s
       (s.burst = none → f.burst = none → f.fetchOrder = [])
       ∧ ∀ i, s.burst = none → waits i →
        (∀ j, waits j → (s.voices[i]).buffer.length < (s.voices[j]).buffer.length
          ∨ ((s.voices[i]).buffer.length = (s.voices[j]).buffer.length ∧ i ≤ j)) →
        let w := s.voices[i]
        let at' := w.layer.offset + 4 * (w.pos + w.buffer.length)
        s.streams.len < at' + 4 * min 64 (w.layer.length - (w.pos + w.buffer.length)) →
        f = chooseBurst 79 (regionFaultAt .samples at' (freeVoice i (joinOrder s)))
          ∧ f.voices[i] = { w with state := .free, buffer := [], pending := false, relPending := false }
          ∧ f.ord.regionFault.region = .samples ∧ noticed .regionFault f = true
          ∧ min (s.ord.regionFault.count + 1) 65535 ≤ f.ord.regionFault.count
          ∧ f.jwr = s.jwr ∧ f.store = s.store ∧ calm f = calm s)
    ∧ (∀ (n : Nat) (t : State),
        (t.burst ≠ none → chooseBurst n t = t)
        ∧ (t.fetchOrder = [] → chooseBurst n t = t))

/-! ## Playback orders, seeks and loops -/

/-- R168, R172: SEEK: the playback voices fade, the queue is flushed, and ORD's read of the first-block offset is queued; R164: LOOP, whose argument's bytes hold the start id, the end id and the count (12.2).
That the seeking reader has no block and ORD's read of the first-block offset is queued for it is the model's choice (log 13). -/
def Obligations.SeekStartsAndLoopIsArmed : Prop :=
  (∀ (seq : Half) (arg : Word) (s : State), s.inReset = false → s.running = true →
    let m := argByte arg 0
    ∃ u, exec (.seek seq arg) s = .next (finish u) ∧ u.store = s.store ∧ u.jwr = s.jwr
      ∧ (m = 0 → calm u = calm s ∧ u.voices = s.voices ∧ answered .play seq .refusedArgument u)
      ∧ (m ≠ 0 →
          calm u = { calm s with
            scr := { s.scr with queue := [], serial := s.scr.serial + 1, state := .reading, block := none,
                                header := none, index := 0, lastDue := 0 }
            play := { s.play with state := .seeking, seek := some ⟨m, some seq⟩, prompts := [], held := KeySet.none } }
          ∧ noPlaybackVoice u ∧ sendsToFading (· == .playback) s u ∧ .firstBlock (s.scr.serial + 1) ∈ u.ord.list
          ∧ noticed .playState u = true ∧ u.ord.statusCall = true))
  ∧ ∀ (seq : Half) (arg : Word) (s : State), s.inReset = false → s.running = true →
    let a := argByte arg 0
    let b := argByte arg 1
    let c := argByte arg 2
    ∃ u, exec (.loop seq arg) s = .next (finish u) ∧ u.voices = s.voices ∧ u.jwr = s.jwr ∧ u.store = s.store
      ∧ (c = 0 → answered .play seq .completed u
          ∧ calm u = { calm s with play :=
              { s.play with loop := { s.play.loop with armed := false, count := 0 }, anchor := none } })
      ∧ (c ≠ 0 → (a = b ∨ a = 0 ∨ b = 0) → answered .play seq .refusedArgument u ∧ calm u = calm s)
      ∧ (c ≠ 0 → a ≠ b → a ≠ 0 → b ≠ 0 → answered .play seq .completed u
          ∧ calm u = { calm s with play := { s.play with loop := ⟨a, b, c, true⟩, anchor := u.play.anchor } }
          ∧ (∀ y, s.play.anchor = some y → y.markId = a → u.play.anchor = some y)
          ∧ ((∀ y, s.play.anchor = some y → y.markId ≠ a) → u.play.anchor = none ∧ u.ord.statusCall = true))

/-- R157, R160, R161: the admission pass over the event queue, by the prompt set as it stands for each NOTE; and what the guide matcher does with a live strike.
That a prompt stands behind those of its own due is the model's choice (log 53). -/
def Obligations.GuideAdmitsAndMatches : Prop :=
  (∀ (bound : Nat) (e : QueueEntry) (es : List QueueEntry) (key : Fin 88) (s : State),
    let set := s.play.prompts
    let grown := set.takeWhile (fun p => decide (p.due ≤ e.due)) ++ ⟨key, e.due, false⟩
      :: set.dropWhile (fun p => decide (p.due ≤ e.due))
    let goes := fun (dealt : Bool) (t : State) =>
      admissionPass bound (e :: es) s = ({ e with dealt := dealt } :: (admissionPass bound es t).1, (admissionPass bound es t).2)
    let considers := e.kind = .note ∧ e.dealt = false ∧ s.play.tracks[e.track] = .guide ∧ e.due ≤ bound
    admissionPass bound [] s = ([], s)
    ∧ (¬ considers → goes e.dealt s)
    ∧ (e.id = key.val → considers →
        ((∀ p ∈ set, p.key ≠ key) → set.length < 16 → goes true { s with play.prompts := grown })
        ∧ ((∀ p ∈ set, p.key ≠ key) → 16 ≤ set.length → goes true (handRecord (recGuide key .overflow 0 s.scanCount) s))
        ∧ (∀ p, set.find? (fun p => decide (p.key = key)) = some p → p.met = false → goes true s)
        ∧ (∀ p, set.find? (fun p => decide (p.key = key)) = some p → p.met = true → goes false s)))
  ∧ (∀ (candidate : Nat) (s : State),
      let r := admissionPass (candidate + s.settings.guideLead * 48) s.scr.queue s
      admitQueue candidate s = { r.2 with scr.queue := r.1 }
      ∧ (s.play.state = .waiting → clockStep s = admitQueue s.play.position s))
  ∧ ∀ (key : Fin 88) (v : Nat) (s : State),
    let takes := (s.play.state = .playing ∨ s.play.state = .stalled ∨ s.play.state = .waiting) ∧ s.settings.guideMin ≤ v
    let set := (s.play.prompts.map fun p => if p.key = key then { p with met := true } else p).filter
      fun p => !(p.met && decide (p.due ≤ s.play.position))
    let goesOn := s.play.state = .waiting ∧ ∀ p ∈ set, p.due ≤ s.play.position → p.met = true
    let t := guideStrike key v s
    (¬ takes → t = s)
    ∧ (∀ p, takes → s.play.prompts.find? (fun p => decide (p.key = key) && !p.met) = some p →
        t.voices = s.voices ∧ t.store = s.store
        ∧ (goesOn → calm t = { calm s with play := { s.play with prompts := set, state := .playing } }
            ∧ noticed .playState t = true)
        ∧ (¬ goesOn → calm t = { calm s with play := { s.play with prompts := set } } ∧ t.ord = s.ord)
        ∧ (s.jwr.taking = true → t.jwr.hand = s.jwr.hand ++
            [.record (recGuide key .met (Int.tdiv ((s.play.position : Int) - (p.due : Int)) 48) s.scanCount) none]))
    ∧ (takes → (∀ p ∈ s.play.prompts, p.key = key → p.met = true) →
        (s.play.state = .waiting → t = handRecord (recGuide key .wrong 0 s.scanCount) s)
        ∧ (s.play.state ≠ .waiting → t = s))

/-- R162, R161: SKIP. That the records of the prompts it marks are handed in the order of the set, where those of equal due stand as they were admitted, is the model's choice (log 53). -/
def Obligations.SkipMarksPromptsMet : Prop :=
  ∀ (seq : Half) (s : State), s.inReset = false → s.running = true →
    let bound := s.play.position + s.settings.guideLead * 48
    let set := (s.play.prompts.map fun p => if p.due ≤ bound then { p with met := true } else p).filter
      fun p => !(p.met && p.due ≤ s.play.position)
    let goesOn := s.play.state = .waiting ∧ ∀ p ∈ set, p.due ≤ s.play.position → p.met = true
    ∃ u, exec (.skip seq) s = .next (finish u) ∧ u.voices = s.voices ∧ u.store = s.store
      ∧ (s.play.prompts = [] → answered .play seq .refusedState u ∧ calm u = calm s ∧ u.jwr = s.jwr)
      ∧ (s.play.prompts ≠ [] → answered .play seq .completed u
          ∧ (goesOn → calm u = { calm s with play := { s.play with prompts := set, state := .playing } })
          ∧ (¬ goesOn → calm u = { calm s with play := { s.play with prompts := set } })
          ∧ (s.jwr.taking = true → u.jwr.hand = s.jwr.hand ++
              (s.play.prompts.filter fun p => !p.met && p.due ≤ bound).map
                fun p => .record (recGuide p.key .skipped 0 s.scanCount) none))

/-- R144, R145: the position and remainder at an audio block; R158: the prompt rule, which the advance ends with.
That the candidate stays at 2^32 - 1 once END is fetched (log 19), and that no bound takes the position back (log 42), are the model's readings. That an audio block runs this clock says DispatchPlaysEvents. -/
def Obligations.ClockAdvances : Prop :=
  (∀ s : State,
    let n := 64 * s.play.tempo + s.play.remainder
    let stalls := s.play.state = .playing ∧ s.scr.queue = [] ∧ s.scr.state = .waiting
    let limit := match s.scr.queue.getLast? with
      | some e => max s.play.position e.due
      | none => s.play.position
    let candidate := if s.scr.state = .done then max s.play.position (min 4294967295 (s.play.position + n / 100))
      else min (s.play.position + n / 100) limit
    (s.play.state ≠ .playing → (clockStep s).play.position = s.play.position
        ∧ (clockStep s).play.remainder = s.play.remainder)
    ∧ (stalls → (clockStep s).play = { s.play with state := .stalled } ∧ noticed .playStall (clockStep s) = true)
    ∧ (s.play.state = .playing → ¬ stalls →
        clockStep s = promptRule candidate (admitQueue candidate { s with play.remainder := n % 100 })
        ∧ (clockStep s).play.remainder = n - 100 * (n / 100)
        ∧ s.play.position ≤ (clockStep s).play.position
        ∧ (clockStep s).play.position ≤ s.play.position + n / 100
        ∧ (s.scr.state ≠ .done → s.scr.queue = [] → (clockStep s).play.position = s.play.position)
        ∧ (s.scr.state ≠ .done → ∀ e, s.scr.queue.getLast? = some e → s.play.prompts = [] →
            (∀ i : Fin 4, s.play.tracks[i] ≠ .guide) →
            (clockStep s).play.position = min (s.play.position + n / 100) (max s.play.position e.due))))
  ∧ ∀ (candidate : Nat) (s : State), s.play.prompts.Pairwise (fun p q => p.due ≤ q.due) →
    let t := promptRule candidate s
    let set := s.play.prompts.filter fun p => !(p.met && decide (p.due ≤ t.play.position))
    t.voices = s.voices ∧ t.jwr = s.jwr ∧ t.store = s.store
    ∧ ((∀ p ∈ s.play.prompts, p.met = true) → t.play.position = candidate)
    ∧ (∀ p ∈ s.play.prompts, p.met = false → t.play.position ≤ max s.play.position p.due)
    ∧ (s.play.position ≤ candidate → s.play.position ≤ t.play.position ∧ t.play.position ≤ candidate)
    ∧ (t.play.position < candidate → ∃ p ∈ s.play.prompts, p.met = false ∧ t.play.position = max s.play.position p.due)
    ∧ ((∀ p ∈ s.play.prompts, p.met = false → t.play.position < p.due) →
        calm t = { calm s with play := { s.play with position := t.play.position, prompts := set } } ∧ t.ord = s.ord)
    ∧ (∀ p ∈ s.play.prompts, p.met = false → p.due ≤ t.play.position →
        calm t = { calm s with play :=
          { s.play with position := t.play.position, prompts := set, state := .waiting } }
        ∧ noticed .guideWait t = true ∧ (s.play.state ≠ .waiting → noticed .playState t = true))

/-- R167: the end mark passes through, and with the loop disarmed it has no effect and the retained block is the queue front's.
R148: a mark that is neither the start mark nor the end mark has no effect. R165: the start mark records the anchor. R166: the end mark with a count above 0 jumps to the anchor, or seeks the start mark where there is none (R171).
That the seeking reader then has no block and ORD's read of the first-block offset is queued for it is the model's choice (log 13). -/
def Obligations.EndMarkPassesThrough : Prop :=
  (∀ (e : QueueEntry) (s : State), e.kind = .mark → s.play.sound → e.id = s.play.loop.endId →
    (s.play.loop.armed = true → s.play.loop.count = 0 →
      dispatchEvent e s =
        { s with play := { s.play with loop := { s.play.loop with armed := false }, anchor := none } })
    ∧ (s.play.loop.armed = false → dispatchEvent e s = s)
    ∧ (s.play.loop.armed = false → s.play.state ≠ .stopped → s.play.state ≠ .ended →
        (∀ f fs, s.scr.queue = f :: fs → retained s = some f.block)
        ∧ (s.scr.queue = [] → retained s = s.scr.block)))
  ∧ (∀ (e : QueueEntry) (s : State), e.kind = .mark → e.id = s.play.loop.startId →
    let here : Anchor := ⟨e.id, e.block, e.index, e.due, s.playback.damper, s.playback.soft, s.playback.sostenuto⟩
    (s.play.loop.armed = true →
      dispatchEvent e s = { s with play.anchor := some here }
      ∧ (s.play.state ≠ .stopped → s.play.state ≠ .ended → retained (dispatchEvent e s) = some e.block))
    ∧ (s.play.loop.armed = false → dispatchEvent e s = s))
  ∧ (∀ (e : QueueEntry) (s : State), e.kind = .mark → e.id ≠ s.play.loop.startId → e.id ≠ s.play.loop.endId →
    dispatchEvent e s = s)
  ∧ ∀ (e : QueueEntry) (s : State), e.kind = .mark → s.play.sound → e.id = s.play.loop.endId →
    s.play.loop.armed = true → 0 < s.play.loop.count →
    let less := if s.play.loop.count = 255 then 255 else s.play.loop.count - 1
    let t := dispatchEvent e s
    t.store = s.store ∧ t.jwr = s.jwr
    ∧ (∀ a, s.play.anchor = some a →
        ∃ w, t = readerGo w ∧ noPlaybackVoice w ∧ sendsToFading (· == .playback) s w ∧ w.ord.statusCall = true
          ∧ (s.play.state ≠ .playing → noticed .playState w = true)
          ∧ calm w = { calm s with
              playback :=
                { damper := a.damper, zone := damperZone s.settings a.damper, h := damperFactor s.settings a.damper,
                  sostenuto := a.sostenuto, engaged := decide (s.settings.sOn ≤ a.sostenuto), held := KeySet.none,
                  soft := a.soft }
              scr := { s.scr with queue := [], serial := s.scr.serial + 1, state := .reading, block := some a.block,
                                  header := none, index := a.index + 1, lastDue := a.position }
              play := { s.play with state := .playing, position := a.position, remainder := 0, prompts := [],
                                    held := KeySet.none, loop := { s.play.loop with count := less } } })
    ∧ (s.play.anchor = none →
        noPlaybackVoice t ∧ sendsToFading (· == .playback) s t ∧ t.ord.statusCall = true ∧ noticed .playState t = true
        ∧ .firstBlock (s.scr.serial + 1) ∈ t.ord.list
        ∧ calm t = { calm s with
            scr := { s.scr with queue := [], serial := s.scr.serial + 1, state := .reading, block := none,
                                header := none, index := 0, lastDue := 0 }
            play := { s.play with state := .seeking, seek := some ⟨s.play.loop.startId, none⟩, prompts := [],
                                  held := KeySet.none, loop := { s.play.loop with count := less } } })

/-- R146, R147 to R149, R159: the dispatch of a NOTE by the mode of its track, of a RELEASE, of a PEDAL and of END, and the order of the dispatches of an audio block. R113, R138, R146: AUDIO_BLOCK itself, in every playback state: a WAITING reader's re-read, the clock, the dispatches, and the work of VCE, MXO and SFU.
Four clauses are the model's choice: a prompt stands behind those of its own due (log 53), a NOTE whose key has a met entry makes no entry and no record (log 52), the re-read is presented before PBC's work (log 49), and the operand says how many dispatches are made before the sound's work, the rest after it (log 4). -/
def Obligations.DispatchPlaysEvents : Prop :=
  (∀ (e : QueueEntry) (key : Fin 88) (s : State), e.id = key.val →
    let t := dispatchEvent e s
    let set := s.play.prompts
    let grown := set.takeWhile (fun p => decide (p.due ≤ e.due)) ++ ⟨key, e.due, false⟩
      :: set.dropWhile (fun p => decide (p.due ≤ e.due))
    (e.kind = .note → s.play.tracks[e.track] = .sound →
      ∃ w, w = startRequest .playback key (max 1 (e.value - s.playback.soft * s.settings.usoft / 1023)) s
        ∧ w.play = s.play ∧ t = { w with play.held := s.play.held.set key.val true key.isLt })
    ∧ (e.kind = .note → s.play.tracks[e.track] = .mute → t = s)
    ∧ (e.kind = .note → s.play.tracks[e.track] = .guide →
        (e.dealt = true → t = s)
        ∧ (∀ p ∈ set, p.key = key → t = s)
        ∧ (e.dealt = false → (∀ p ∈ set, p.key ≠ key) → 16 ≤ set.length →
            t = handRecord (recGuide key .overflow 0 s.scanCount) s)
        ∧ (e.dealt = false → (∀ p ∈ set, p.key ≠ key) → set.length < 16 →
            t.voices = s.voices ∧ t.jwr = s.jwr
            ∧ calm t = { calm s with play := { s.play with
                prompts := grown
                state := if s.play.state = .playing then .waiting else s.play.state } }
            ∧ (s.play.state = .playing → noticed .guideWait t = true ∧ noticed .playState t = true)))
    ∧ (e.kind = .release →
        ∃ w, w = releaseVoice .playback key s ∧ w.play = s.play
          ∧ t = { w with play.held := s.play.held.set key.val false key.isLt }))
  ∧ (∀ (e : QueueEntry) (s : State), e.kind = .pedal →
    let c := s.playback
    let t := dispatchEvent e s
    calm t = { calm s with playback := t.playback } ∧ t.jwr = s.jwr
    ∧ t.playback.damper = (if e.id = 0 then e.value else c.damper)
    ∧ t.playback.sostenuto = (if e.id = 1 then e.value else c.sostenuto)
    ∧ t.playback.soft = (if e.id = 0 ∨ e.id = 1 then c.soft else e.value)
    ∧ t.playback.zone = damperZone s.settings t.playback.damper
    ∧ t.playback.h = damperFactor s.settings t.playback.damper
    ∧ (c.engaged = false → s.settings.sOn ≤ t.playback.sostenuto →
        t.playback.engaged = true ∧ t.playback.held = s.play.held ∧ t.voices = s.voices)
    ∧ (c.engaged = true → t.playback.sostenuto < s.settings.sOff →
        t.playback.engaged = false ∧ t.playback.held = KeySet.none
        ∧ ∀ i : Fin 80,
            let v := s.voices[i]
            t.voices[i] = if v.state = .held ∧ v.source = .playback then
              { v with state := if s.play.held[v.key] then .sounding else .releasing } else v)
    ∧ ((c.engaged = false ∧ t.playback.sostenuto < s.settings.sOn)
        ∨ (c.engaged = true ∧ s.settings.sOff ≤ t.playback.sostenuto) →
        t.playback.engaged = c.engaged ∧ t.playback.held = c.held ∧ t.voices = s.voices))
  ∧ (∀ (e : QueueEntry) (s : State), e.kind = .fin →
    let t := dispatchEvent e s
    t.store = s.store ∧ t.jwr = s.jwr
    ∧ calm t = { calm s with
        scr := { s.scr with queue := [], serial := s.scr.serial + 1, state := .idle, block := none, header := none }
        play := { s.play with state := .ended, endCause := .fin, held := KeySet.none, prompts := [], anchor := none } }
    ∧ (s.play.state ≠ .ended → noticed .playState t = true ∧ t.ord.statusCall = true)
    ∧ ∀ i : Fin 80,
        let v := s.voices[i]
        t.voices[i] =
          (if v.source = .playback ∧ (v.state = .sounding ∨ v.state = .held) then { v with state := .releasing }
           else if v.source = .playback ∧ v.state = .priming then { v with relPending := true }
           else v))
  ∧ ∀ (n : Nat) (s : State),
    let runs := s.play.state = .playing ∨ s.play.state = .waiting
    (∀ e es, s.scr.queue = e :: es → runs → e.due ≤ s.play.position →
      let t := resumeReader (dispatchEvent e { s with scr.queue := es })
      (t.play.state = s.play.state → dispatchMany (n + 1) s = dispatchMany n t)
      ∧ (t.play.state ≠ s.play.state → dispatchMany (n + 1) s = (false, t)))
    ∧ (∀ e es, s.scr.queue = e :: es → (¬ runs ∨ s.play.position < e.due) → dispatchMany (n + 1) s = (false, s))
    ∧ (s.scr.queue = [] → dispatchMany (n + 1) s = (false, s))
    ∧ (s.scr.state = .full → s.scr.queue.length ≤ 16 → resumeReader s = readerGo { s with scr.state := .reading })
    ∧ ((s.scr.state ≠ .full ∨ 16 < s.scr.queue.length) → resumeReader s = s)
    ∧ dispatchMany 0 s = (true, s)
    ∧ (s.inReset = false →
        let d := dispatchMany n (clockStep (reread s))
        let t := soundBlock d.2
        (d.1 = false → exec (.audioBlock n) s = .next (finish t))
        ∧ (d.1 = true → exec (.audioBlock n) s = .next (finish (dispatchMany t.scr.queue.length t).2)))

/-! ## Orders -/

/-- R174: while RUN is clear every order of every slot is answered REFUSED_STATE and changes nothing; while it is set a code the slot does not know is answered UNKNOWN_ORDER and changes nothing. R173, R174: when ORD's read of an order word completes, its flag is cleared and the order in the store is taken, whatever its code: the command does what the order's own row does then. That the orders have rows of their own, with the sequence and argument, is the model's choice (log 5). -/
def Obligations.OrdersAreTaken : Prop :=
  ((∀ (c : Instr) (slot : Slot) (seq : Half) (s : State), s.inReset = false → s.running = false →
    slotAndSeq c = some (slot, seq) →
    ∃ u, exec c s = .next (finish u) ∧ answered slot seq .refusedState u ∧ calm u = calm s
      ∧ u.voices = s.voices ∧ u.jwr = s.jwr ∧ u.store = s.store)
  ∧ ∀ (slot : Slot) (code : Byte) (seq : Half) (s : State), s.inReset = false → s.running = true →
    slot.knows code = false →
    ∃ u, exec (.unknownOrder slot code seq) s = .next (finish u) ∧ answered slot seq .unknownOrder u
      ∧ calm u = calm s ∧ u.voices = s.voices ∧ u.jwr = s.jwr ∧ u.store = s.store)
  ∧ (∀ (slot : Slot) (order : List Nat) (s : State), s.inReset = false → readsWatched (.order slot) s = true →
    let w := orderWordAt s.store (areaAddr s (orderOffset slot))
    let t := takeWatched (.order slot) s
    t.ord.triggers[(Watched.order slot).index] = false ∧ t.busy = none ∧ calm t = calm s
      ∧ ∃ u, exec (.orderWordTaken slot order) s = .next u ∧ exec (orderRow slot order w) t = .next u)

/-! ## Journal -/

/-- R61, R62, R59: JOURNAL_MARK and JOURNAL_RESTART hand JWR their work, and a read mark is handed to JWR while RUN is set.
That records, read marks and restarts wait in one hand (log 10), and that RUN is tested when ORD's read of the read mark word completes (log 48), are the model's choices. -/
def Obligations.JournalOrdersAreHanded : Prop :=
  ∀ (seq : Half) (arg : Word) (s : State), s.inReset = false →
    (s.running = true →
      exec (.journalMark seq arg) s = .next (finish { s with jwr.hand := s.jwr.hand ++
        [.record ⟨.mark, 0, arg.setWidth 16, 0, s.scanCount⟩ (some seq)] })
      ∧ exec (.journalRestart seq) s = .next (finish { s with jwr.hand := s.jwr.hand ++ [.restart seq] }))
    ∧ (readsWatched .readMark s = true →
      ∃ u, exec .readMark s = .next (finish u) ∧ calm u = calm s ∧ u.busy = none
        ∧ u.ord.triggers[Watched.readMark.index] = false
        ∧ (s.running = true →
            u.jwr = { s.jwr with hand := s.jwr.hand ++ [.readMark (areaWord s offReadMark)] })
        ∧ (s.running = false → u.jwr = s.jwr))

/-- R56 to R60, R62: what JWR does with an item it takes.
That a read mark which waited is tested against W as it stands when its turn comes is the model's choice (log 66). -/
def Obligations.JournalTakesItems : Prop :=
  ∀ s : State,
    (∀ (r : Record) (ans : Option Half),
      (s.jwr.gap = 0 → s.jwr.fill < s.jwr.capacity →
        takeItem (.record r ans) s = { s with jwr.op := .writing r false none ans })
      ∧ (s.jwr.gap ≠ 0 → s.jwr.fill < s.jwr.capacity →
        takeItem (.record r ans) s =
          { s with jwr.op := .writing ⟨.gap, 0, BitVec.ofNat 16 s.jwr.gap, 0, r.scan⟩ true (some (r, ans)) none })
      ∧ (s.jwr.capacity ≤ s.jwr.fill →
        (takeItem (.record r ans) s).jwr = { s.jwr with gap := min (s.jwr.gap + 1) 65535 }
        ∧ (takeItem (.record r ans) s).store = s.store
        ∧ (s.jwr.gap = 0 → noticed .journalGap (takeItem (.record r ans) s) = true)
        ∧ (∀ q, ans = some q → answered .journal q .completed (takeItem (.record r ans) s))))
    ∧ (∀ v : Word,
      ((s.jwr.w - v).toNat ≤ s.jwr.capacity →
        (takeItem (.readMark v) s).jwr = { s.jwr with r := v }
        ∧ ((takeItem (.readMark v) s).jwr.level = true → noticed .journalLevel (takeItem (.readMark v) s) = true))
      ∧ (s.jwr.capacity < (s.jwr.w - v).toNat →
        takeItem (.readMark v) s = { s with jwr.ignored := min (s.jwr.ignored + 1) 65535 }))
    ∧ ∀ seq : Half,
      (takeItem (.restart seq) s).jwr = { s.jwr with w := 0, r := 0, gap := 0, op := .restartWrite seq }

/-- R56, R58: the end of a record's store write: the record is in its slot, W is incremented, and no other byte is written; R53, R56, R58, R62: the end of the write of a mark word of the journal descriptor.
That at RUN rising the write mark word is written first and the read mark word second is the model's choice (log 57): R53 gives no order. -/
def Obligations.JournalWritesEnd : Prop :=
  (∀ (r : Record) (g : Bool) (b : Option (Record × Option Half)) (a : Option Half) (s : State),
    s.inReset = false → s.busy = some .jwr → s.jwr.op = .writing r g b a → Memory.wf s.store = true →
    let x := s.ord.regions.journal.base + s.jwr.w.toNat % s.jwr.capacity * 8
    ∃ u, exec .journalRecordWriteDone s = .next (finish u) ∧ calm u = calm s ∧ u.voices = s.voices
      ∧ u.busy = none
      ∧ u.jwr = { s.jwr with w := s.jwr.w + 1, gap := if g then 0 else s.jwr.gap, op := .marking b a }
      ∧ readBytes u.store x 8 = r.bytes ∧ onlyBytes x 8 s u
      ∧ (u.jwr.level = true → noticed .journalLevel u = true))
  ∧ (∀ s : State, s.inReset = false → s.busy = some .jwr → Memory.wf s.store = true →
    (∀ b a, s.jwr.op = .marking b a →
      ∃ u, exec .writeMarkWordWritten s = .next (finish u) ∧ calm u = calm s ∧ u.busy = none
        ∧ areaWord u offWriteMark = s.jwr.w ∧ onlyBytes (areaAddr s offWriteMark) 4 s u
        ∧ (∀ q, a = some q → answered .journal q .completed u)
        ∧ (b = none → u.jwr = { s.jwr with op := .idle })
        ∧ (∀ r x, b = some (r, x) → s.jwr.fill < s.jwr.capacity →
            u.jwr = { s.jwr with op := .writing r false none x })
        ∧ (∀ r x, b = some (r, x) → s.jwr.capacity ≤ s.jwr.fill →
            u.jwr = { s.jwr with op := .idle, gap := min (s.jwr.gap + 1) 65535 }
            ∧ ∀ q, x = some q → answered .journal q .completed u))
    ∧ (∀ q, s.jwr.op = .restartWrite q →
      ∃ u, exec .writeMarkWordWritten s = .next (finish u) ∧ calm u = calm s ∧ areaWord u offWriteMark = 0
        ∧ onlyBytes (areaAddr s offWriteMark) 4 s u ∧ u.jwr = { s.jwr with op := .restartRead q })
    ∧ (∀ q, s.jwr.op = .restartRead q →
      ∃ u, exec .writeMarkWordWritten s = .next (finish u) ∧ calm u = calm s ∧ areaWord u offReadMark = 0
        ∧ onlyBytes (areaAddr s offReadMark) 4 s u ∧ u.jwr = { s.jwr with op := .idle }
        ∧ answered .journal q .completed u)
    ∧ (s.jwr.op = .startWrite →
      ∃ u, exec .writeMarkWordWritten s = .next (finish u) ∧ calm u = calm s ∧ areaWord u offWriteMark = 0
        ∧ onlyBytes (areaAddr s offWriteMark) 4 s u ∧ u.jwr = { s.jwr with op := .startRead })
    ∧ (s.jwr.op = .startRead →
      ∃ u, exec .writeMarkWordWritten s = .next (finish u) ∧ calm u = calm s ∧ areaWord u offReadMark = 0
        ∧ onlyBytes (areaAddr s offReadMark) 4 s u ∧ u.jwr = { s.jwr with op := .idle }))

/-! ## Notices, answers, pages -/

/-- R177 to R179: the notice mask, the acknowledge and the settings selector, when ORD's read of the word completes.
Two clauses are the model's choice: an acknowledge that names JOURNAL_LEVEL leaves a clear bit clear while the level holds (log 22), and a page status that becomes ADOPTING shows reason NONE, first bad field 0 and no layers dropped (log 30). -/
def Obligations.NoticeAndSelectorWords : Prop :=
  ∀ s : State, s.inReset = false →
    (readsWatched .mask s = true →
      ∃ u, exec .noticeMask s = .next (finish u) ∧ calm u = calm s ∧ u.jwr = s.jwr ∧ u.store = s.store
        ∧ u.ord = { s.ord with mask := (areaWord s offMask).setWidth 16, list := s.ord.list.tail,
                               triggers := s.ord.triggers.set Watched.mask.index.val false Watched.mask.index.isLt })
    ∧ (readsWatched .acknowledge s = true →
      ∃ u, exec .noticeAcknowledge s = .next (finish u) ∧ u.jwr = s.jwr ∧ u.store = s.store
        ∧ u.ord.triggers[Watched.acknowledge.index] = false
        ∧ (let named := (areaWord s offAcknowledge).setWidth 16
           calm u = { calm s with mixer := { s.mixer with
             clip := s.mixer.clip && named &&& Notice.audioClip.word == 0 } }
           ∧ ∀ n : Notice,
               (named &&& n.word = 0 → noticed n u = noticed n s)
               ∧ (named &&& n.word ≠ 0 → noticed n u =
                   (noticed n s && n == .journalLevel && s.jwr.level))))
    ∧ (readsWatched .selector s = true →
      ∃ u, exec .settingsSelector s = .next (finish u) ∧ calm u = calm s ∧ u.jwr = s.jwr ∧ u.store = s.store
        ∧ u.ord.triggers[Watched.selector.index] = false
        ∧ (s.running = false → u.ord.adoption = s.ord.adoption ∧ u.ord.pageStatus = s.ord.pageStatus)
        ∧ (s.running = true → s.ord.adoption.phase ≠ .idle →
            u.ord.adoption = { s.ord.adoption with next := true } ∧ u.ord.pageStatus = s.ord.pageStatus)
        ∧ (s.running = true → s.ord.adoption.phase = .idle →
            let w := areaWord s offSelector
            u.ord.adoption.phase = .page ∧ u.ord.adoption.page = w.getLsbD 0
            ∧ u.ord.adoption.stamp = (w >>> 16).setWidth 16
            ∧ u.ord.pageStatus = ⟨.adopting, w.getLsbD 0, (w >>> 16).setWidth 16, .none, 0, 0⟩
            ∧ .pageStatus u.ord.pageStatus ∈ u.ord.list))

/-- R175, R181, R48: the ends of ORD's writes of an answer word, of the page status and of the last calibration table entry.
That entry 95 is the one written last is the model's choice of an order for the 96 writes (log 47). -/
def Obligations.OrdWritesEnd : Prop :=
  ∀ s : State, s.inReset = false → Memory.wf s.store = true →
    (∀ slot seq r, ordHead s = some (.answer slot seq r) →
      ∃ u, exec .answerWritten s = .next (finish u) ∧ calm u = calm s ∧ u.jwr = s.jwr ∧ u.busy = none
        ∧ readBytes u.store (areaAddr s (answerOffset slot)) 4 = answerBytes seq r
        ∧ onlyBytes (areaAddr s (answerOffset slot)) 4 s u ∧ noticed .orderAnswered u = true)
    ∧ (∀ v, ordHead s = some (.pageStatus v) →
      ∃ u, exec .pageStatusWritten s = .next (finish u) ∧ calm u = calm s ∧ u.jwr = s.jwr ∧ u.busy = none
        ∧ readBytes u.store (areaAddr s offPageStatus) 8 = pageStatusBytes v
        ∧ onlyBytes (areaAddr s offPageStatus) 8 s u
        ∧ (v.state = .adopted → noticed .pageAdopted u = true)
        ∧ (v.state = .refused → noticed .pageRefused u = true)
        ∧ (v.state = .adopting → u.ord.summary = s.ord.summary))
    ∧ (∀ v, ordHead s = some (.calEntry 95 v) →
      ∃ u, exec .calTableWritten s = .next (finish u) ∧ u.jwr = s.jwr ∧ u.busy = none
        ∧ calm u = { calm s with cap := { s.cap with order := none, endOrder := none, finishing := false } }
        ∧ readBytes u.store (areaAddr s (offCalTable + 8 * 95)) 8 = calEntryBytes v
        ∧ onlyBytes (areaAddr s (offCalTable + 8 * 95)) 8 s u ∧ noticed .calDone u = true
        ∧ (∀ q, s.cap.order = some q → answered .cal q .completed u)
        ∧ (∀ q, s.cap.endOrder = some q → answered .cal q .completed u))

/-- R180, 12.3: the fields of a page as they are taken, each at its offset and clamped. R8, R180, R195, R191: the page is read and checked: refused with the reason and the first bad field of the first test that fails, or gone on with to the reads of the table and, where it lies inside SAMPLES, of the map; R179, R182: a refusal is followed by the selector's re-read for a further adoption, or by the start sequence's read of it.
The pieces in which the table and the map are read (log 15), that the read of the journal's marks follows them in a start sequence (log 13), and that the summary write of REGION_FAULT, where one is queued, stands before all these reads (log 63), are the model's choice. -/
def Obligations.PageIsChecked : Prop :=
  (∀ l : List Byte,
    let c := fun low high off n => max low (min high (field l off n))
    let signed := fun off : Nat =>
      let b : Int := field l off 1
      if b < 128 then b else b - 256
    parsePage l =
      { u := c 0 1023 0x008 2, d := c 0 1023 0x00A 2, p := c 0 1023 0x00C 2, l := c 0 1023 0x00E 2
        jump := c 16 1023 0x010 2, confirm := c 0 7 0x012 1, usoft := c 0 32 0x013 1, sfull := c 64 65535 0x014 2
        curve := Vector.ofFn fun i => c 1 127 (0x016 + i.val) 1
        trims := Vector.ofFn fun i => max (-16) (min 15 (signed (0x028 + i.val)))
        dlo := c 0 1023 0x080 2, dhi := c 0 1023 0x082 2, sOn := c 0 1023 0x084 2, sOff := c 0 1023 0x086 2
        pedalStep := c 1 255 0x088 1, pedalJournal := field l 0x089 1 != 0
        kDown := c 16384 32768 0x08A 2, kUp := c 16384 32768 0x08C 2, volume := c 0 255 0x08E 1
        framing := if field l 0x08F 1 = 1 then .pulsed else .framed
        monitor := field l 0x090 1 != 0, reserve := c 0 64 0x091 1, leverEnable := field l 0x092 1 != 0
        settle := c 0 4000 0x094 2, travelLimit := c 200 5000 0x096 2, holdLimit := c 100 30000 0x098 2
        dwellLimit := c 20 500 0x09A 2, threshold := c 1 65535 0x09C 2, guideLead := c 0 1000 0x09E 2
        guideMin := c 1 127 0x0A0 1, mapOffset := field l 0x0A4 4 / 4 * 4 })
  ∧ (∀ l : List Byte,
    let x := parsePage l
    let signed := field l 0 4 = 0x4750_5357 ∧ field l 4 2 = 1
    let marked := 16 ≤ x.u ∧ x.u + 32 ≤ x.d ∧ x.d + 32 ≤ x.p ∧ x.p + 32 ≤ x.l ∧ x.l ≤ 1000
    (field l 0 4 ≠ 0x4750_5357 → pageProblem l = some (.signature, 1))
    ∧ (field l 0 4 = 0x4750_5357 → field l 4 2 ≠ 1 → pageProblem l = some (.signature, 2))
    ∧ (signed → x.u < 16 → pageProblem l = some (.marks, 3))
    ∧ (signed → 16 ≤ x.u → x.d < x.u + 32 → pageProblem l = some (.marks, 4))
    ∧ (signed → 16 ≤ x.u → x.u + 32 ≤ x.d → x.p < x.d + 32 → pageProblem l = some (.marks, 5))
    ∧ (signed → 16 ≤ x.u → x.u + 32 ≤ x.d → x.d + 32 ≤ x.p → (x.l < x.p + 32 ∨ 1000 < x.l) →
        pageProblem l = some (.marks, 6))
    ∧ (signed → marked → x.dhi ≤ x.dlo → pageProblem l = some (.damper, 14))
    ∧ (signed → marked → x.dlo < x.dhi → x.sOn ≤ x.sOff → pageProblem l = some (.sostenuto, 16))
    ∧ (signed → marked → x.dlo < x.dhi → x.sOff < x.sOn → pageProblem l = none))
  ∧ ∀ s : State, s.inReset = false → readsPageEnd s = true →
    let a := s.ord.adoption
    ∃ u, exec .pageReadDone s = .next (finish u) ∧ calm u = calm s ∧ u.jwr = s.jwr ∧ u.store = s.store
      ∧ u.ord.forcePage = s.ord.forcePage ∧ u.ord.forceStamp = s.ord.forceStamp
      ∧ (∀ reason bad, pageProblem a.bytes = some (reason, bad) →
          u.ord.pageStatus = ⟨.refused, a.page, a.stamp, reason, bad, 0⟩
          ∧ .pageStatus u.ord.pageStatus ∈ u.ord.list ∧ u.ord.adoption = Adoption.reset
          ∧ (a.next = true → .nextSelector ∈ u.ord.list)
          ∧ (s.start = .waitAdoption → u.start = .selector ∧ .startSelector ∈ u.ord.list)
          ∧ (s.start = .adopting → u.start = .none ∧ u.areaError = .page ∧ u.runBit = false)
          ∧ (s.start ≠ .adopting → u.areaError = s.areaError ∧ u.runBit = s.runBit))
      ∧ (pageProblem a.bytes = none →
          u.ord.pageStatus = s.ord.pageStatus ∧ u.start = s.start
          ∧ u.ord.adoption.phase = .tables ∧ u.ord.adoption.checked = parsePage a.bytes
          ∧ (let off := (parsePage a.bytes).mapOffset
             u.ord.adoption.mapRead = decide (off + 4576 ≤ s.ord.regions.samples.len)
             ∧ (s.ord.regions.samples.len < off + 4576 →
                 u.ord.regionFault = ⟨.samples, off, min (s.ord.regionFault.count + 1) 65535⟩
                 ∧ noticed .regionFault u = true)
             ∧ ∃ n : List OrdAccess, (n = [] ∨ n = [.summary])
                 ∧ (off + 4576 ≤ s.ord.regions.samples.len → n = [] ∧ u.ord.regionFault = s.ord.regionFault)
                 ∧ u.ord.list = s.ord.list.tail ++ n ++ (List.range 96).map OrdAccess.tableEntry
                     ++ (if off + 4576 ≤ s.ord.regions.samples.len then (List.range 1144).map OrdAccess.mapWord else [])
                     ++ (if s.start = .adopting then [.startMarks] else [])))

/-- R181, R191, R42, R23, R30, R92: an adoption completes: every setting and the calibration read take effect at once, the page is in force, and an adoption of the start sequence ends in a running part with its key, pedal and rail records initialised and the RUN_START and RAIL records handed to JWR; R179, R182: the selector's re-read for a further adoption, or the start sequence's read of it, is queued. R53, R60: at RUN rising JWR takes its capacity and marks from the store as that read finds them, or restarts them, and the threshold in force is computed and its copy written; R65, R66: both views are refreshed with count 0; R118, R132: the voices are FREE with empty buffers, the fetch order and the clip count are cleared. What an adoption of a running part does to the keys, pedals, contexts and voices says AdoptionMeetsTheRun, what the map brings SampleMapIsLoaded.
That a table entry's 8 bytes are taken in one access (log 15), that the capacity is the JOURNAL region's length over 8 (log 12), that an adoption of a start sequence ends at ORD's read of the journal descriptor (log 13), and that the SAMPLES region the voices are fetched from is taken as the voices are freed (log 45), are the model's choices. -/
def Obligations.AdoptionTakesEffect : Prop :=
  (∀ (i : Nat) (s : State),
    let a := areaAddr s (offCalTable + 8 * i)
    let x : CalEntry := ⟨min 4095 (readField s.store a 2), min 4095 (readField s.store (a + 2) 2),
      (readByte s.store (a + 4)).getLsbD 1, (readByte s.store (a + 4)).getLsbD 2⟩
    afterAccess (.tableEntry i) s = { s with ord.adoption := { s.ord.adoption with
      table := s.ord.adoption.table ++ [x], begun := true,
      stale := s.ord.adoption.stale || (i == 0 && s.cap.finishing) } })
  ∧ ∀ (l : Lines) (c : AdoptionChoice) (s : State) (a : OrdAccess), s.inReset = false →
    readsAdoptionEnd s = true → ordHead s = some a →
    let p := afterAccess a (endOrd s)
    let set := s.ord.adoption.checked
    let v : PageStatus := ⟨.adopted, s.ord.adoption.page, s.ord.adoption.stamp, .none, 0, p.ord.adoption.dropped⟩
    ∃ u, exec (.adoptionCompletion l c) s = .next (finish u)
      ∧ u.settings = set ∧ u.mapCopy = loadedMap p ∧ u.ord.pageStatus = v ∧ .pageStatus v ∈ u.ord.list
      ∧ u.ord.forcePage = s.ord.adoption.page ∧ u.ord.forceStamp = s.ord.adoption.stamp
      ∧ u.ord.adoption = Adoption.reset ∧ u.mixer.framing = set.framing ∧ u.link = s.link ∧ u.area = s.area
      ∧ (p.ord.adoption.stale = true → u.cal = s.cal)
      ∧ (p.ord.adoption.stale = false → ∀ c : Fin 96,
          (∀ x, p.ord.adoption.table[c.val]? = some x → u.cal[c] = x)
          ∧ (p.ord.adoption.table[c.val]? = none → u.cal[c] = s.cal[c]))
      ∧ (s.ord.adoption.next = true → .nextSelector ∈ u.ord.list)
      ∧ (s.start = .waitAdoption → u.start = .selector ∧ .startSelector ∈ u.ord.list)
      ∧ (s.start ≠ .adopting →
          u.running = s.running ∧ u.rail = s.rail ∧ u.play = s.play ∧ u.scr = s.scr ∧ u.cap = s.cap
          ∧ u.mixer.target = (if s.running then set.volume else s.mixer.target) ∧ u.scanCount = s.scanCount
          ∧ u.streams = s.streams)
      ∧ (s.start = .adopting → s.stopHeld = false →
          u.running = true ∧ u.start = .none ∧ u.scanCount = 0 ∧ u.jwr.taking = true ∧ u.jwr.gap = 0
          ∧ (∃ old, u.jwr.hand = old ++
              [.record ⟨.runStart, if s.ord.adoption.page then 1 else 0, s.ord.adoption.stamp, 0, 0⟩ none,
               .record ⟨.rail, BitVec.ofNat 8 u.rail.state.code, BitVec.ofNat 16 u.rail.stop.code, 0, 0⟩ none]
              ∧ (s.jwr.taking = false → old = s.jwr.hand))
          ∧ u.mixer.target = set.volume ∧ u.play.skipped = 0 ∧ u.ord.regionFault = ⟨.none, 0, 0⟩
          ∧ u.mixer.clipCount = 0 ∧ u.mixer.clip = s.mixer.clip ∧ u.mixer.mc = s.mixer.mc
          ∧ u.stats = ⟨0, 0, 0, 0, 0⟩ ∧ u.startCounter = s.startCounter ∧ u.fetchOrder = []
          ∧ (∀ i : Fin 80,
              let v := u.voices[i]
              v.state = .free ∧ v.buffer = [] ∧ v.pending = false ∧ v.relPending = false)
          ∧ u.streams = s.ord.regions.samples
          ∧ (let st : RailState := if l.swHome then (if l.swStop then .part else .engaged)
               else if l.swStop then .retracted else .stalled
             let r := { s.rail with
               inputs := ⟨⟨l.swHome, 0⟩, ⟨l.swStop, 0⟩, ⟨l.lever, 0⟩, ⟨l.svc, 0⟩⟩
               dir := none, limits := none, travel := 0, pause := 0, dwell := 0, settle := 0, quiet := true }
             (s.rail.state = .stalled → u.rail = r)
             ∧ (s.rail.state ≠ .stalled → st = .stalled →
                 u.rail = { r with state := .stalled, fault := .switch, stop := .switch }
                 ∧ noticed .railFault u = true)
             ∧ (s.rail.state ≠ .stalled → st ≠ .stalled →
                 u.rail = { r with state := st, stop := if st = s.rail.state then s.rail.stop else .drift }))
          ∧ (∀ k : Fin 88,
              let c := u.cal[keyChannel k]
              let raw := s.raw[keyChannel k]
              let d := depthOf c raw
              (c.rz + 256 ≤ c.bt → u.keys[k] =
                ⟨if d < set.u then .idle else .returning, ⟨raw, d, none, 0, false⟩, none, none, .none⟩)
              ∧ (c.bt < c.rz + 256 → u.keys[k] = ⟨.disabled, ⟨raw, 0, none, 0, false⟩, none, none, .calibration⟩
                ∧ noticed .keyFault u = true))
          ∧ (∀ q : Fin 3,
              let c := u.cal[pedalChannel q]
              let raw := s.raw[pedalChannel q]
              let d := depthOf c raw
              (c.rz + 256 ≤ c.bt → u.pedals[q] = ⟨.active, ⟨raw, d, none, 0, false⟩, d, false⟩)
              ∧ (c.bt < c.rz + 256 → u.pedals[q] = ⟨.disabled, ⟨raw, 0, none, 0, false⟩, 0, false⟩
                ∧ noticed .keyFault u = true))
          ∧ u.live.damper = (u.pedals[(0 : Fin 3)]).sensor.depth ∧ u.live.sostenuto = (u.pedals[(1 : Fin 3)]).sensor.depth
          ∧ u.live.soft = (u.pedals[(2 : Fin 3)]).sensor.depth ∧ u.lastZone = damperZone set u.live.damper
          ∧ u.live.zone = damperZone set u.live.damper ∧ u.live.h = damperFactor set u.live.damper
          ∧ u.playback = Context.reset
          ∧ (s.ord.viewWriting = false → .keyView 0x9DC [0, 0, 0, 0] true ∈ u.ord.list)
          ∧ (s.ord.viewWriting = true → u.ord.viewDue = some 0)
          ∧ (s.ord.statusWriting = false → (s.scr.state ≠ .reading ∨ s.scr.block ≠ none) →
              .status 0x3FC [0, 0, 0, 0] true ∈ u.ord.list)
          ∧ ((s.ord.statusWriting = true ∨ (s.scr.state = .reading ∧ s.scr.block = none)) → u.ord.statusDue = some 0))
      ∧ (s.start = .adopting →
          let c := s.ord.regions.journal.len / 8
          let w := areaWord s offWriteMark
          let r := areaWord s offReadMark
          u.jwr.capacity = c ∧ u.jwr.ignored = 0 ∧ u.jwr.gap = 0
          ∧ ((w - r).toNat ≤ c → u.jwr.w = w ∧ u.jwr.r = r ∧ u.jwr.op = .idle)
          ∧ (c < (w - r).toNat → u.jwr.w = 0 ∧ u.jwr.r = 0 ∧ u.jwr.op = .startWrite)
          ∧ (c ≠ 0 → u.jwr.threshold = min set.threshold c ∧ .threshold (min set.threshold c) ∈ u.ord.list))
      ∧ (s.start = .adopting → s.stopHeld = true → u.running = false ∧ u.runBit = false ∧ u.start = .none
          ∧ .record ⟨.runStart, if s.ord.adoption.page then 1 else 0, s.ord.adoption.stamp, 0, 0⟩ none ∈ u.jwr.hand)

/-- R26, R31, R6, R38, R60, R108: what an adoption outside the start sequence does to the key and pedal records, the glitch candidates, the two contexts, the threshold in force and the playback voices; R22: the NOTE_OFFs of the keys it disables.
That VCE takes those releases only while the part runs is the model's reading (log 26), and that a LIVE rise takes the keys as the adoption leaves them its choice (log 46). -/
def Obligations.AdoptionMeetsTheRun : Prop :=
  (∀ (l : Lines) (c : AdoptionChoice) (s : State), s.inReset = false → readsAdoptionEnd s = true → s.start ≠ .adopting →
    let set := s.ord.adoption.checked
    ∃ u, exec (.adoptionCompletion l c) s = .next (finish u) ∧ u.settings = set
      ∧ (let before := fun k : Fin 96 => (s.cal[k]).rz + 256 ≤ (s.cal[k]).bt
         let after := fun k : Fin 96 => (u.cal[k]).rz + 256 ≤ (u.cal[k]).bt
         let sounds := fun r : KeyRec => r.state = .sounding ∨ r.state = .rearmed ∨ r.state = .repeatDescent
         let loses := fun k : Fin 88 => (s.keys[k]).state ≠ .disabled ∧ (s.keys[k]).state ≠ .capture
           ∧ before (keyChannel k) ∧ ¬ after (keyChannel k)
         let drops := fun q : Fin 3 => (s.pedals[q]).mode = .active ∧ before (pedalChannel q) ∧ ¬ after (pedalChannel q)
         (∀ k,
           let r := s.keys[k]
           (loses k → u.keys[k] = { r with state := .disabled, cause := .calibration, timing := none,
                                           sensor := { r.sensor with depth := 0, cand := none } })
           ∧ (¬ loses k → u.keys[k] = { r with sensor := { r.sensor with cand := none } }))
         ∧ (∀ q,
           let r := s.pedals[q]
           let p := u.pedals[q]
           (drops q → p.mode = .disabled ∧ p.sensor = { r.sensor with depth := 0, cand := none })
           ∧ (¬ drops q → p.mode = r.mode ∧ p.sensor = { r.sensor with cand := none })
           ∧ p.lastDepth = (if s.settings.pedalJournal = false ∧ set.pedalJournal = true then p.sensor.depth else r.lastDepth))
         ∧ u.lastZone = (if s.settings.pedalJournal = false ∧ set.pedalJournal = true then u.live.zone else s.lastZone)
         ∧ (((∃ k, loses k) ∨ ∃ q, drops q) → noticed .keyFault u = true)
         ∧ (let took := u.jwr.hand.drop s.jwr.hand.length
            u.jwr.hand.take s.jwr.hand.length = s.jwr.hand
            ∧ (s.jwr.taking = false → took = [])
            ∧ (s.jwr.taking = true → ∀ i, i ∈ took ↔
                ∃ k, loses k ∧ sounds s.keys[k] ∧ i = .record (recKeyOff k false s.scanCount) none))
         ∧ (liveFollows set s u
              ∧ Context.evaluates set s.play.held s.playback u.playback
              ∧ (s.live.engaged = true → u.live.engaged = false →
                  ∀ i : Fin 80, (u.voices[i]).source = .live → (u.voices[i]).state ≠ .held)
              ∧ (s.playback.engaged = true → u.playback.engaged = false →
                  ∀ i : Fin 80, (u.voices[i]).source = .playback → (u.voices[i]).state ≠ .held))
         ∧ (s.running = true → voicesSound s.voices → s.live.sound → ∀ i : Fin 80,
             let v := s.voices[i]
             v.source = .live → loses v.key → sounds s.keys[v.key] →
               (v.state = .sounding → (u.voices[i]).state = (if u.live.held[v.key] then .held else .releasing))
               ∧ (v.state = .priming → u.voices[i] = { v with relPending := true }))
         ∧ playbackCount u = min (playbackCount s) (80 - set.reserve)
         ∧ (s.jwr.capacity ≠ 0 → u.jwr.threshold = min set.threshold s.jwr.capacity
             ∧ .threshold u.jwr.threshold ∈ u.ord.list
             ∧ (u.jwr.threshold ≠ s.jwr.threshold → u.jwr.threshold ≤ (s.jwr.w - s.jwr.r).toNat →
                 noticed .journalLevel u = true))))
  ∧ ∀ (n : Nat) (t : State),
    (playbackCount t ≤ playbackCap t → trimReserve n t = t)
    ∧ (∀ i, trimChoice t = some i → playbackCap t < playbackCount t →
        let x := t.voices[i]
        trimReserve (n + 1) t = trimReserve n (pruneOrder (setVoice i
          (if x.state = .priming then { x with state := .free, buffer := [], pending := false, relPending := false }
           else { x with state := .fading, relPending := false }) t)))
    ∧ (trimChoice t = none ↔ playbackCount t = 0)
    ∧ (∀ i, trimChoice t = some i →
        let x := t.voices[i]
        x.state.active = true ∧ x.source = .playback
        ∧ ∀ j : Fin 80,
            let y := t.voices[j]
            y.source = .playback →
              (y.state = .releasing → x.state = .releasing ∧ x.env ≤ y.env ∧ (x.env = y.env → i ≤ j))
              ∧ (y.state = .held → x.state = .releasing ∨ (x.state = .held ∧ x.env ≤ y.env ∧ (x.env = y.env → i ≤ j)))
              ∧ (y.state = .sounding → x.state ≠ .priming ∧
                  (x.state = .sounding → (t.startCounter - y.serial).toNat ≤ (t.startCounter - x.serial).toNat))
              ∧ (y.state = .priming → x.state = .priming →
                  (t.startCounter - y.serial).toNat ≤ (t.startCounter - x.serial).toNat))

/-- R95, R96: the words of the sample map as an adoption reads them, the layers kept and dropped of each key entry, and the map copy that the completion takes.
That the map is read a word at a time in rising offset, the thirteenth word of an entry bringing a key's layers, is the model's choice (log 15). -/
def Obligations.SampleMapIsLoaded : Prop :=
  (∀ (i : Nat) (s : State),
    let a := s.ord.adoption
    let entry := a.entry ++ readBytes s.store (s.ord.regions.samples.base + (a.checked.mapOffset + 4 * i)) 4
    let k := keyLayers entry s.ord.regions.samples.len
    (i % 13 ≠ 12 → afterAccess (.mapWord i) s = { s with ord.adoption := { a with entry := entry } })
    ∧ (i % 13 = 12 → afterAccess (.mapWord i) s = { s with ord.adoption :=
        { a with entry := [], map := a.map ++ [k.1], dropped := a.dropped + k.2 } }))
  ∧ (∀ (l : List Byte) (len : Nat),
    keyLayers l len = keptLayers l len (min 4 (field l 0 1)) 0 [] 0
    ∧ ∀ (n i : Nat) (kept : List Layer) (dropped : Nat),
      let at' := 4 + 12 * i
      let x : Layer := ⟨max 1 (min 127 (field l at' 1)), field l (at' + 4) 4, field l (at' + 8) 3, field l (at' + 1) 1⟩
      let keeps := x.offset % 4 = 0 ∧ x.length ≠ 0 ∧ x.offset + 4 * x.length ≤ len
        ∧ ∀ y, kept.getLast? = some y → y.top < x.top
      keptLayers l len 0 i kept dropped = (kept, dropped)
      ∧ (keeps → keptLayers l len (n + 1) i kept dropped = keptLayers l len n (i + 1) (kept ++ [x]) dropped)
      ∧ (¬ keeps → keptLayers l len (n + 1) i kept dropped = keptLayers l len n (i + 1) kept (dropped + 1)))
  ∧ (∀ (l : List Byte) (len : Nat),
    let k := keyLayers l len
    k.1.length + k.2 = min 4 (field l 0 1)
    ∧ (∀ x ∈ k.1, 1 ≤ x.top ∧ x.top ≤ 127 ∧ x.offset % 4 = 0 ∧ 0 < x.length ∧ x.offset + 4 * x.length ≤ len)
    ∧ k.1.Pairwise (fun x y => x.top < y.top))
  ∧ ∀ (s : State) (k : Fin 88),
    (s.ord.adoption.mapRead = false → (loadedMap s)[k] = [])
    ∧ (s.ord.adoption.mapRead = true → (loadedMap s)[k] = (s.ord.adoption.map[k.val]?).getD [])

/-- R65, R66: a scan completion of the run whose count is a multiple of 80 calls for both refreshes with that count, and no other calls for one. The operand says of each whether its copy is taken before the scan completion (log 4; the key view's first, log 58); R186: such a copy shows nothing of the scan, its count included.
R65, R66, R186: a key view refresh and a status refresh take their copies and queue their writes, begin word first and end word last; the size and order of the writes between are the model's (log 56). A refresh that falls while one is being written waits with its own count, and a refresh that is copied takes in those that waited.
No status copy is taken while the reader waits for ORD's read of the first-block offset, and a 10 ms refresh called for at the very count of a copy stays one of its own (the model's choices, log 14). That a refresh which waited shows the fields as they stand at its copy, the final refresh of RUN clear among them, is the model's choice for that one (log 65). -/
def Obligations.RefreshesTakeCopies : Prop :=
  ∀ s : State, s.inReset = false →
    (∀ n, s.ord.viewDue = some n → s.ord.viewWriting = false →
      ∃ u w, exec .keyViewRefresh s = .next (finish u) ∧ calm u = calm s ∧ u.store = s.store ∧ u.jwr = s.jwr
        ∧ u.ord = { s.ord with viewDue := none, viewWriting := true, list := s.ord.list ++ w }
        ∧ w.length = 93
        ∧ w[0]? = some (.keyView 0x700 (toBytes 4 n.toNat) false)
        ∧ (∀ k : Fin 88, w[k.val + 1]? = some (.keyView (0x704 + 8 * k.val) (keyEntry s k) false))
        ∧ (∀ p : Fin 3, w[p.val + 89]? = some (.keyView (0x704 + 8 * (p.val + 88)) (pedalEntry s p) false))
        ∧ w[92]? = some (.keyView 0x9DC (toBytes 4 n.toNat) true))
    ∧ (∀ n, (s.ord.statusTick = some n ∨ (s.ord.statusTick = none ∧ s.ord.statusDue = some n)) →
      s.ord.statusWriting = false → (s.scr.state ≠ .reading ∨ s.scr.block ≠ none) →
      ∃ u, exec .statusRefresh s = .next (finish u) ∧ calm u = calm s ∧ u.store = s.store ∧ u.jwr = s.jwr
        ∧ u.ord.statusTick = none ∧ u.ord.statusDue = none
        ∧ u.ord.list = s.ord.list ++ (.status 0x200 (toBytes 4 n.toNat) false
            :: ((List.range 126).map (fun i =>
                OrdAccess.status (0x204 + 4 * i) (((statusBody s).drop (4 * i)).take 4) false)
              ++ [.status 0x3FC (toBytes 4 n.toNat) true]))
        ∧ (statusBody s).length = 504)
    ∧ (s.scr.state = .reading → s.scr.block = none → ∀ n,
        refreshStatus n s = { s with ord.statusDue := some n, ord.statusTick := none }
        ∧ (rowlessHead s = none → exec .statusRefresh s = .next s))
    ∧ (∀ n, (s.ord.viewWriting = true → refreshView n s = { s with ord.viewDue := some n })
        ∧ (s.ord.viewWriting = false → (refreshView n s).ord.viewDue = none ∧ (refreshView n s).ord.viewWriting = true
            ∧ .keyView 0x9DC (toBytes 4 n.toNat) true ∈ (refreshView n s).ord.list)
        ∧ (s.ord.statusWriting = true → refreshStatus n s = { s with ord.statusDue := some n, ord.statusTick := none })
        ∧ (s.ord.statusWriting = false → (s.scr.state ≠ .reading ∨ s.scr.block ≠ none) →
            (refreshStatus n s).ord.statusDue = none ∧ (refreshStatus n s).ord.statusWriting = true
            ∧ (refreshStatus n s).ord.statusTick = (if s.ord.statusTick = some n then some n else none)
            ∧ .status 0x3FC (toBytes 4 n.toNat) true ∈ (refreshStatus n s).ord.list))
    ∧ (s.ord.statusCall = true → callStatus s = refreshStatus s.scanCount { s with ord.statusCall := false })
    ∧ (s.ord.statusCall = false → callStatus s = s)
    ∧ (∀ x : Scan, s.running = true →
        let n := s.scanCount + 1
        let begun := { s with raw := scanRaw x.conv, lines := x.lines, muxAddress := 0 }
        let viewed := if x.choice.viewFirst then refreshView n begun else begun
        let early := if x.choice.statusFirst then refreshStatus n viewed else viewed
        ∃ u, exec (.scanCompletion x) s = .next (finish u)
          ∧ (n.toNat % 80 = 0 →
              u.ord.viewDue = (if x.choice.viewFirst then early.ord.viewDue else some n)
              ∧ u.ord.statusTick = (if x.choice.statusFirst then early.ord.statusTick else some n)
              ∧ u.ord.statusDue = (if x.choice.statusFirst then early.ord.statusDue else none)
              ∧ u.ord.viewWriting = early.ord.viewWriting ∧ u.ord.statusWriting = early.ord.statusWriting
              ∧ early.ord.list <+: u.ord.list
              ∧ (x.choice.statusFirst = true → s.ord.statusWriting = false →
                  (s.scr.state ≠ .reading ∨ s.scr.block ≠ none) →
                  .status 0x200 (toBytes 4 n.toNat) false ∈ u.ord.list
                  ∧ .status 0x284 (toBytes 4 s.scanCount.toNat) false ∈ u.ord.list))
          ∧ (n.toNat % 80 ≠ 0 →
              u.ord.viewDue = s.ord.viewDue ∧ u.ord.statusTick = s.ord.statusTick ∧ u.ord.statusDue = s.ord.statusDue
              ∧ u.ord.viewWriting = s.ord.viewWriting ∧ u.ord.statusWriting = s.ord.statusWriting
              ∧ s.ord.list <+: u.ord.list))

/-- R64, 12.4: the bytes of a key view entry of a key and of a pedal; R142, 12.1, 12.5, 12.7: the bytes of the status block between its two count words, with the codes of their fields, and 0 in every byte that the tables do not name (R194).
The codes of the clip flag and of the loop's armed byte (log 59), and that the first-block offset shown as retained is the one the reader last took (log 51), are the model's choice. -/
def Obligations.CopiesShowTheRecords : Prop :=
  let flag := fun b : Bool => if b then 1 else 0
  let byte := fun n : Nat => n % 256
  let half := fun n : Nat => n % 65536
  let word := fun n : Nat => n % 4294967296
  (∀ (s : State) (k : Fin 88),
    let r := s.keys[k]
    let e := field (keyEntry s k)
    (keyEntry s k).length = 8 ∧ e 0 1 = r.state.code ∧ e 1 1 = 0 ∧ e 2 2 = half r.sensor.depth
    ∧ (∀ v, r.lastVelocity = some v → e 4 1 = byte v) ∧ (r.lastVelocity = none → e 4 1 = 0)
    ∧ e 5 1 = (if r.cause = .calibration then 1 else 0) + 2 * flag r.sensor.noisy + 4 * flag s.live.held[k]
    ∧ e 6 2 = 0)
  ∧ (∀ (s : State) (p : Fin 3),
    let r := s.pedals[p]
    let e := field (pedalEntry s p)
    (pedalEntry s p).length = 8 ∧ e 0 1 = r.mode.code ∧ e 1 1 = 0 ∧ e 2 2 = half r.sensor.depth ∧ e 4 1 = 0
    ∧ e 5 1 = (if r.mode = .disabled then 1 else 0) + 2 * flag r.sensor.noisy ∧ e 6 2 = 0)
  ∧ (∀ s : State,
    let e := fun off n => field (statusBody s) (off - 0x204) n
    let page := s.ord.pageStatus
    let fault := s.ord.regionFault
    let r := s.rail
    let p := s.play
    let kept : Option Nat :=
      if p.state = .stopped ∨ p.state = .ended then none
      else if p.loop.armed then some (match p.anchor with | some a => a.block | none => s.scr.firstBlock)
      else match s.scr.queue with | q :: _ => some q.block | [] => s.scr.block
    (statusBody s).length = 504 ∧ e 0x204 1 = flag s.running
    ∧ e 0x208 1 = page.state.code ∧ e 0x209 1 = flag page.page ∧ e 0x20A 2 = page.stamp.toNat
    ∧ e 0x20C 1 = page.reason.code ∧ e 0x20D 1 = byte page.firstBad ∧ e 0x20E 2 = half page.dropped
    ∧ e 0x210 1 = flag s.ord.forcePage ∧ e 0x212 2 = s.ord.forceStamp.toNat
    ∧ e 0x214 1 = fault.region.code ∧ e 0x216 2 = half fault.count ∧ e 0x218 4 = word fault.offset
    ∧ e 0x220 1 = r.state.code
    ∧ e 0x221 1 = (match r.dir with | none => 0 | some .inward => 1 | some .outward => 2)
    ∧ e 0x222 1 = r.target.code ∧ e 0x223 1 = r.perm.code ∧ e 0x224 1 = r.stop.code ∧ e 0x225 1 = r.fault.code
    ∧ e 0x226 1 = (if r.inputs.lever.level then Target.silent else Target.acoustic).code ∧ e 0x227 1 = r.source.code
    ∧ e 0x228 2 = half r.travel ∧ e 0x22A 2 = half r.pause ∧ e 0x22C 2 = half r.dwell ∧ e 0x22E 2 = half r.settle
    ∧ e 0x240 1 = p.state.code ∧ e 0x241 1 = p.endCause.code ∧ e 0x242 2 = half p.tempo
    ∧ (∀ t : Fin 4, e (0x244 + t.val) 1 = (p.tracks[t]).code) ∧ e 0x248 4 = word p.position
    ∧ e 0x24C 1 = byte p.loop.startId ∧ e 0x24D 1 = byte p.loop.endId ∧ e 0x24E 1 = byte p.loop.count
    ∧ e 0x24F 1 = flag p.loop.armed ∧ e 0x250 2 = half p.skipped
    ∧ (∀ b, kept = some b → e 0x254 4 = word b) ∧ (kept = none → e 0x254 4 = 0xFFFF_FFFF)
    ∧ e 0x260 1 = (match s.cap.running with | none => 0 | some .rest => 1 | some .bottom => 2)
    ∧ e 0x261 1 = (match s.cap.lastKind with | none => 0 | some .rest => 1 | some .bottom => 2)
    ∧ e 0x262 1 = (match s.cap.lastEnd with
        | none => 0 | some .completed => 1 | some .ended => 2 | some .expired => 3 | some .abandoned => 4)
    ∧ e 0x263 1 = byte s.cap.updated ∧ e 0x264 1 = byte s.cap.unsteady ∧ e 0x265 1 = byte s.cap.notPressed
    ∧ e 0x268 4 = word s.cap.scans
    ∧ e 0x270 2 = half s.stats.starts ∧ e 0x272 2 = half s.stats.steals ∧ e 0x274 2 = half s.stats.restrikes
    ∧ e 0x276 2 = half s.stats.underruns ∧ e 0x278 2 = half s.stats.silents
    ∧ e 0x27C 2 = half s.mixer.clipCount ∧ e 0x27E 1 = flag s.mixer.clip
    ∧ e 0x280 2 = half s.jwr.ignored ∧ e 0x284 4 = s.scanCount.toNat
    ∧ e 0x205 3 = 0 ∧ e 0x211 1 = 0 ∧ e 0x215 1 = 0 ∧ e 0x21C 4 = 0 ∧ e 0x230 16 = 0 ∧ e 0x252 2 = 0
    ∧ e 0x258 8 = 0 ∧ e 0x266 2 = 0 ∧ e 0x26C 4 = 0 ∧ e 0x27A 2 = 0 ∧ e 0x27F 1 = 0 ∧ e 0x282 2 = 0
    ∧ e 0x288 372 = 0)
  ∧ [KeyState.disabled, .capture, .idle, .descent, .sounding, .rearmed, .repeatDescent, .returning].map KeyState.code
      = [0, 1, 2, 3, 4, 5, 6, 7]
  ∧ [PedalMode.active, .disabled, .frozen].map PedalMode.code = [8, 9, 10]
  ∧ [PageState.none, .adopting, .adopted, .refused].map PageState.code = [0, 1, 2, 3]
  ∧ [PageReason.none, .signature, .marks, .damper, .sostenuto].map PageReason.code = [0, 1, 2, 3, 4]
  ∧ [FaultRegion.none, .samples, .score].map FaultRegion.code = [0, 1, 2]
  ∧ [RailState.retracted, .engaged, .part, .engaging, .releasing, .paused, .reversing, .stalled].map RailState.code
      = [0, 1, 2, 3, 4, 5, 6, 7]
  ∧ [StopCause.none, .arrived, .held, .pauseLimit, .travel, .switch, .drift, .stopped].map StopCause.code
      = [0, 1, 2, 3, 4, 5, 6, 7]
  ∧ [Target.silent, .acoustic].map Target.code = [0, 1]
  ∧ [Permission.free, .held, .pinned].map Permission.code = [0, 1, 2]
  ∧ [FaultCause.none, .travel, .switch].map FaultCause.code = [0, 1, 2]
  ∧ [Source.host, .lever].map Source.code = [0, 1]
  ∧ [PlayState.stopped, .seeking, .playing, .stalled, .waiting, .paused, .ended].map PlayState.code
      = [0, 1, 2, 3, 4, 5, 6]
  ∧ [PlayEnd.none, .fin, .region].map PlayEnd.code = [0, 1, 2]
  ∧ [TrackMode.sound, .guide, .mute].map TrackMode.code = [0, 1, 2]

/-! ## The link, the registers and the run -/

/-- R187, R188: the command byte picks the transaction; the transactions that open on a port with LSEL high and no word waiting: STORE_READ, STORE_WRITE, BANK_SET, and an unknown command byte. While a word of an earlier transaction waits these change nothing (log 17). -/
def Obligations.LinkTransactionsOpen : Prop :=
  (∀ (sent : List Nib) (bytes : Nat) (s : State),
    exec (.linkStoreRead sent bytes) s = transact 0x21 sent bytes s
    ∧ exec (.linkStoreWrite sent) s = transact 0x22 sent 0 s
    ∧ exec (.regRead sent) s = transact 0x31 sent 0 s
    ∧ exec (.regWrite sent) s = transact 0x32 sent 0 s
    ∧ exec (.bankSet sent) s = transact 0x41 sent 0 s
    ∧ (∀ code, exec (.unknownCommand code) s = transact code [] 0 s)
    ∧ (∀ code, s.inReset = false → s.link.request ≠ none → code ≠ 0x31 → code ≠ 0x32 →
        transact code sent bytes s = .next s))
  ∧ ∀ (sent : List Nib) (bytes : Nat) (code : Byte) (s : State), s.inReset = false → s.link.mode = .closed →
    s.link.request = none →
    let addr := BitVec.ofNat 24 (ofBytesBig (bytesOfNibbles (sent.take 6)))
    let at' := s.link.bank.toNat * 0x100_0000 + addr.toNat / 4 * 4
    (∃ u, exec (.linkStoreRead sent bytes) s = .next (finish u) ∧ calm u = { calm s with link := u.link }
      ∧ u.store = s.store ∧ u.link.bank = s.link.bank ∧ u.link.out = []
      ∧ (6 ≤ sent.length → u.link.mode = .reading ∧ u.link.addr = addr ∧ u.link.toRead = bytes
          ∧ u.link.request = some ⟨at', none, false⟩)
      ∧ (sent.length < 6 → u.link.mode = .ignoring ∧ u.link.request = none))
    ∧ (∃ u, exec (.linkStoreWrite sent) s = .next (finish u) ∧ calm u = { calm s with link := u.link }
      ∧ u.store = s.store ∧ u.link.bank = s.link.bank
      ∧ (14 ≤ sent.length → u.link.mode = .writing ∧ u.link.toWrite = sent.drop 14
          ∧ u.link.request =
              some ⟨at', some (BitVec.ofNat 32 (ofBytes (bytesOfNibbles ((sent.drop 6).take 8)))), false⟩)
      ∧ (6 ≤ sent.length → sent.length < 14 → u.link.mode = .writing ∧ u.link.request = none)
      ∧ (sent.length < 6 → u.link.mode = .ignoring ∧ u.link.request = none))
    ∧ (sent.length < 2 →
      ∃ t, exec (.bankSet sent) s = .next t ∧ calm t = { calm s with link := t.link } ∧ t.link.bank = s.link.bank)
    ∧ (∀ hi lo more, sent = hi :: lo :: more →
      ∃ t, exec (.bankSet sent) s = .next t ∧ calm t = { calm s with link := t.link }
        ∧ ((byteOf hi lo).toNat ≤ 3 → t.link.bank.toNat = (byteOf hi lo).toNat)
        ∧ (3 < (byteOf hi lo).toNat → t.link.bank = s.link.bank))
    ∧ (code ≠ 0x21 → code ≠ 0x22 → code ≠ 0x31 → code ≠ 0x32 → code ≠ 0x41 →
      ∃ t, exec (.unknownCommand code) s = .next t ∧ t.link.mode = .ignoring ∧ t.link.request = none
        ∧ t.link.bank = s.link.bank ∧ calm t = { calm s with link := t.link })

/-- R188: the end of the link's access to one word, after which a STORE_WRITE presents its next. R185, R188, R189: LSEL rises: a write triggers the watched words it wrote, at once or when its last word is in the store, and any other transaction triggers nothing; R173: a trigger sets the word's flag and queues ORD's read of it, and merges where the flag is set; and a link request that has waited ages.
That the 64 audio frames are counted by the starts of output frames (log 18), and that the triggers of one transaction are made in ascending offset (log 54), are the model's choices. -/
def Obligations.LinkAccessesEndAndAge : Prop :=
  (∀ (r : LinkRequest) (s : State), s.inReset = false → s.busy = some .link → s.link.request = some r →
    Memory.wf s.store = true →
    ∃ u, exec .linkWordAccessDone s = .next (finish u) ∧ calm u = { calm s with link := u.link }
      ∧ u.jwr = s.jwr ∧ u.busy = none ∧ u.link.bank = s.link.bank ∧ u.link.mode = s.link.mode
      ∧ (∀ w, r.data = some w →
          readWord u.store r.addr = w ∧ onlyBytes r.addr 4 s u
          ∧ u.link.addr = s.link.addr + 4 ∧ u.link.written = s.link.written ++ [r.addr]
          ∧ (s.link.toWrite.length < 8 → u.link.request = none ∧ u.link.toWrite = s.link.toWrite)
          ∧ (8 ≤ s.link.toWrite.length → u.link.waited = 0 ∧ u.link.toWrite = s.link.toWrite.drop 8
              ∧ u.link.request = some ⟨s.link.bank.toNat * 0x100_0000 + (s.link.addr + 4).toNat / 4 * 4,
                  some (BitVec.ofNat 32 (ofBytes (bytesOfNibbles (s.link.toWrite.take 8)))), false⟩)
          ∧ u.ord = (triggerAll s.link.deferred s).ord ∧ u.link.deferred = []
          ∧ (∀ x ∈ s.link.deferred, u.ord.triggers[x.index] = true
              ∧ (s.ord.triggers[x.index] = false → .trigger x ∈ u.ord.list)))
      ∧ (r.data = none → u.store = s.store ∧ u.ord = s.ord
          ∧ (r.dead = true → u.link = { s.link with request := none, waited := 0 })
          ∧ (r.dead = false →
              let n := min 4 s.link.toRead
              u.link.out = s.link.out ++ nibblesOf ((toBytes 4 (readWord s.store r.addr).toNat).take n)
              ∧ u.link.toRead = s.link.toRead - n ∧ u.link.addr = s.link.addr + 4
              ∧ (n = 4 → u.link.request =
                  some ⟨s.link.bank.toNat * 0x100_0000 + (s.link.addr + 4).toNat / 4 * 4, none, false⟩)
              ∧ (n < 4 → u.link.request = none))))
  ∧ (∀ (landed : Nat) (s : State), s.inReset = false →
    let closed := { s.link with mode := .closed, toWrite := [], toRead := 0, out := [], written := [], aged := false }
    ((s.link.mode = .register ∨ s.link.mode = .ignoring) →
      exec (.lselRise landed) s = .next (finish { s with link := closed }))
    ∧ (s.link.mode = .writing → s.link.request = none →
      let hits := Watched.all.filter fun w => (watchedAddrs s w).any fun x => s.link.written.contains x
      ∃ u, exec (.lselRise landed) s = .next (finish u)
        ∧ u = { s with link := closed, ord := (triggerAll hits s).ord }
        ∧ ∀ w : Watched,
            ((∃ x ∈ watchedAddrs s w, x ∈ s.link.written) → u.ord.triggers[w.index] = true
              ∧ (s.ord.triggers[w.index] = false → .trigger w ∈ u.ord.list))
            ∧ ((∀ x ∈ watchedAddrs s w, x ∉ s.link.written) → u.ord.triggers[w.index] = s.ord.triggers[w.index]
              ∧ (.trigger w ∈ u.ord.list → .trigger w ∈ s.ord.list)))
    ∧ (∀ r, s.link.mode = .writing → s.link.request = some r →
      ∃ t, exec (.lselRise landed) s = .next t ∧ t.ord.triggers = s.ord.triggers
        ∧ calm t = { calm s with link := { closed with deferred := t.link.deferred } } ∧ t.link.request = some r
        ∧ ∀ w : Watched, w ∈ t.link.deferred ↔ ∃ x ∈ watchedAddrs s w, x ∈ s.link.written ++ [r.addr])
    ∧ (s.link.mode = .reading →
      ∃ t, exec (.lselRise landed) s = .next t ∧ t.ord.triggers = s.ord.triggers
        ∧ calm t = { calm s with link := { closed with request := s.link.request.map fun r => { r with dead := true } } })
    ∧ (∀ r, s.link.request = some r → s.busy ≠ some .link → 64 ≤ s.link.waited →
      (s.link.mode = .reading ∨ s.link.mode = .writing) → s.link.aged = false →
      ∃ t, exec .linkAged s = .next t ∧ calm t = { calm s with link := { s.link with aged := true } }))
  ∧ ∀ (w : Watched) (ws : List Watched) (s : State),
    triggerAll [] s = s ∧ triggerAll (w :: ws) s = triggerAll ws (trigger w s)
    ∧ (s.ord.triggers[w.index] = true → trigger w s = s)
    ∧ (s.ord.triggers[w.index] = false → trigger w s =
        { s with ord := { s.ord with triggers := s.ord.triggers.set w.index.val true w.index.isLt
                                     list := s.ord.list ++ [.trigger w] } })

/-- R190, R196: the registers as read and as written over the link, whether or not a word of an earlier transaction waits. A REG_WRITE whose fourth data byte is not clocked in writes nothing (R190), and a REG_READ cut off in its address drives nothing.
That a register transaction opens while a word of an earlier one waits (log 44), and that AREA_WRITE is the REG_WRITE of AREA (log 34), are the model's readings. -/
def Obligations.RegistersReadAndWrite : Prop :=
  ∀ (r : Byte) (v : Word) (more : List Nib) (s : State), s.inReset = false →
    s.link.mode = .closed →
    let opened := { s.link with mode := .register, toWrite := [], toRead := 0, out := [], written := [] }
    (∃ t x, exec (.regRead (byteNibbles r ++ more)) s = .next t
      ∧ calm t = { calm s with link := { opened with out := nibblesOf (toBytes 4 (BitVec.toNat x)) } }
      ∧ (r = 0x00 → x = (0x4E010588 : Word)) ∧ (r = 0x04 → x = s.area)
      ∧ (r = 0x08 → x = if s.runBit then 1 else 0)
      ∧ (r = 0x0C → x = (if s.running then 1 else 0) ||| BitVec.ofNat 32 (s.areaError.code * 256)
          ||| BitVec.ofNat 32 (s.ord.forceStamp.toNat * 65536))
      ∧ (r ≠ 0x00 → r ≠ 0x04 → r ≠ 0x08 → r ≠ 0x0C → x = 0))
    ∧ (r ≠ 0x04 → r ≠ 0x08 →
      ∃ t, exec (.regWrite (registerNibbles r v ++ more)) s = .next t ∧ calm t = { calm s with link := opened })
    ∧ (∃ t, exec (.areaWrite v) s = .next t ∧ exec (.regWrite (registerNibbles 0x04 v)) s = .next t
      ∧ calm t = { calm s with link := opened, area := t.area }
      ∧ (s.running = false → s.start = .none → t.area = v &&& 0x03FF_C000)
      ∧ ((s.running = true ∨ s.start ≠ .none) → t.area = s.area))
    ∧ (v.getLsbD 1 = true →
      ∃ t, exec (.regWrite (registerNibbles 0x08 v ++ more)) s = .next t
        ∧ calm t = { calm s with link := { opened with mode := .resetting } })
    ∧ (more.length < 10 → exec (.regWrite more) s = .next (finish { s with link := opened }))
    ∧ (more.length < 2 → exec (.regRead more) s = .next (finish { s with link := opened }))

/-- R191, R192: RUN rising and RUN clear; R91: the rail at RUN clear, and the one record that JWR is handed; R50, R25, R31: a capture that runs is abandoned, with no table entry, answer or CAL_DONE, and the keys and pedals leave CAPTURE and FROZEN.
That the start sequence first waits until JWR is done with the last run's records (log 11), and that RUN_RISING and RUN_CLEAR are the REG_WRITEs of CONTROL with 1 and 0 (log 34), are the model's readings. -/
def Obligations.RunRisesAndClears : Prop :=
  ∀ s : State, s.inReset = false → s.link.mode = .closed →
    let opened := { s.link with mode := .register, toWrite := [], toRead := 0, out := [], written := [] }
    (∃ u, exec .runRising s = .next (finish u) ∧ exec (.regWrite (registerNibbles 0x08 1)) s = .next (finish u)
      ∧ calm u = { calm s with link := opened }
      ∧ (s.running = false → s.start = .none →
          u.runBit = true ∧ u.areaError = .none ∧ u.start = .waitJournal)
      ∧ ((s.running = true ∨ s.start ≠ .none) →
          u.runBit = s.runBit ∧ u.areaError = s.areaError ∧ u.start = s.start))
    ∧ (∃ u, exec .runClear s = .next (finish u) ∧ exec (.regWrite (registerNibbles 0x08 0)) s = .next (finish u)
      ∧ u.link = opened
      ∧ (s.running = true →
          u.running = false ∧ u.runBit = false ∧ u.cap.running = none ∧ u.playback = Context.reset
          ∧ u.play = { s.play with state := .stopped, seek := none, prompts := [], held := KeySet.none,
                                   anchor := none, loop := { s.play.loop with armed := false, count := 0 } }
          ∧ (∀ i : Fin 80, (u.voices[i]).state.active = false) ∧ sendsToFading (fun _ => true) s u
          ∧ (let r := s.rail
             let st : RailState := if r.inputs.home.level then (if r.inputs.stop.level then .part else .engaged)
               else if r.inputs.stop.level then .retracted else .stalled
             let short := { r with dir := none, limits := none, pause := 0, dwell := 0 }
             motorIn u = false ∧ motorOut u = false
             ∧ (r.state.moving = true → st ≠ .stalled → u.rail = { short with state := st, stop := .stopped })
             ∧ (r.state.moving = true → st = .stalled →
                 u.rail = { short with state := .stalled, fault := .switch, stop := .switch })
             ∧ (r.state = .stalled → u.rail = r)
             ∧ (r.state.resting = true → st ≠ .stalled → u.rail = { r with state := st, stop := .stopped })
             ∧ (r.state.resting = true → st = .stalled →
                 u.rail = { r with state := .stalled, fault := .switch, stop := .switch })
             ∧ (r.state ≠ .stalled → st = .stalled → noticed .railFault u = true))
          ∧ (s.jwr.taking = true → u.jwr.hand = s.jwr.hand ++
              [.record (recRail u.rail.state u.rail.stop s.scanCount) none])
          ∧ (s.jwr.taking = false → u.jwr.hand = s.jwr.hand)
          ∧ (s.cap.running = none → u.cap = s.cap ∧ u.keys = s.keys ∧ u.pedals = s.pedals ∧ u.live = s.live)
          ∧ (∀ kind, s.cap.running = some kind →
              u.cap = { s.cap with running := none, order := none, lastKind := some kind, lastEnd := some .abandoned }
              ∧ leavesCapture (fun k => (s.keys[k]).sensor.raw) (fun p => (s.pedals[p]).sensor.raw) s u
              ∧ liveFollows s.settings s u)
          ∧ (∀ c v, .calEntry c v ∈ u.ord.list → .calEntry c v ∈ s.ord.list)
          ∧ (∀ slot q r, answered slot q r u → answered slot q r s)
          ∧ noticed .calDone u = noticed .calDone s
          ∧ u.mixer = { s.mixer with target := 0 } ∧ u.jwr.taking = false ∧ u.ord.adoption.next = false
          ∧ u.ord.viewDue = none ∧ u.ord.statusCall = true ∧ u.settings = s.settings ∧ u.cal = s.cal
          ∧ u.store = s.store)
      ∧ (s.running = false → calm u = { calm s with link := opened } ∧ u.runBit = s.runBit
          ∧ u.stopHeld = (s.stopHeld || s.start != .none)))

/-- R191 steps 1 to 4, R183, R177, R195: the start sequence before its adoption: the header test, the checks of the region table and the journal capacity, the region table and the mask taken, and the adoption of the page the selector names, once no adoption is in flight. R179: an adoption that ends with its next flag set has the selector read again, and the end of that read starts the further adoption.
That the sequence waits for JWR to be done with the last run's records (log 11), that its reads end at steps on an empty queue (log 6), that the pieces of a page are read in this order (log 15), that a page status which becomes ADOPTING shows reason NONE, first bad field 0 and no layers dropped (log 30), that a re-read which finds RUN clear or an adoption in flight starts none (log 43), and the order in which two accesses of one event are queued (log 63) are the model's. -/
def Obligations.StartSequenceReads : Prop :=
  (∀ s : State, s.start = .waitJournal →
    (s.jwr.op = .idle → s.jwr.hand = [] →
      beginStart s = { s with start := .header, ord.list := s.ord.list ++ [.startHeader] })
    ∧ ((s.jwr.op ≠ .idle ∨ s.jwr.hand ≠ []) → beginStart s = s))
  ∧ (∀ s : State, s.start ≠ .waitJournal → beginStart s = s)
  ∧ (∀ s : State, s.pending = [] → s.inReset = false →
    let t := endOrd s
    let fails := fun e : AreaError => { t with runBit := false, areaError := e, start := .none, stopHeld := false }
    (rowlessHead s = some .startHeader →
      let ok := areaWord s 0 = 0x3838_5357 ∧ readField s.store (areaAddr s 4) 2 = 1
      (ok → step s = .next (finish { t with start := .regions, ord.list := t.ord.list ++ [.startRegions] }))
      ∧ (¬ ok → step s = .next (finish (fails .signature))))
    ∧ (rowlessHead s = some .startRegions →
      let word := fun i : Nat => (areaWord s (0x060 + 4 * i)).toNat
      let samples : Region := ⟨word 0, word 1⟩
      let score : Region := ⟨word 2, word 3⟩
      let journal : Region := ⟨word 4, word 5⟩
      let capacity := (areaWord s 0x080).toNat
      let inside := fun r : Region => r.base % 8 = 0 ∧ r.len % 8 = 0 ∧ r.base + r.len ≤ 0x400_0000
      let apart := fun a b : Region => a.len = 0 ∨ b.len = 0 ∨ a.base + a.len ≤ b.base ∨ b.base + b.len ≤ a.base
      let area : Region := ⟨s.area.toNat, 0x4000⟩
      let ok := inside samples ∧ inside score ∧ inside journal ∧ apart samples area ∧ apart score area
        ∧ apart journal area ∧ apart samples score ∧ apart samples journal ∧ apart score journal
        ∧ (∃ e, 8 ≤ e ∧ e ≤ 16 ∧ capacity = 2 ^ e) ∧ journal.len = 8 * capacity
      (ok → step s = .next (finish { t with
        start := .mask, ord.regions := ⟨samples, score, journal⟩, ord.list := t.ord.list ++ [.startMask] }))
      ∧ (¬ ok → step s = .next (finish (fails .region))))
    ∧ (rowlessHead s = some .startMask →
      ∃ u, step s = .next (finish u) ∧ calm u = calm s ∧ u.jwr = s.jwr ∧ u.store = s.store
        ∧ u.ord.mask = (areaWord s offMask).setWidth 16 ∧ .summary ∈ u.ord.list ∧ u.ord.adoption = s.ord.adoption
        ∧ (s.ord.adoption.phase = .idle → u.start = .selector ∧ .startSelector ∈ u.ord.list)
        ∧ (s.ord.adoption.phase ≠ .idle → u.start = .waitAdoption))
    ∧ (rowlessHead s = some .startSelector →
      let w := areaWord s offSelector
      ∃ u, step s = .next (finish u) ∧ calm u = calm s ∧ u.jwr = s.jwr ∧ u.store = s.store ∧ u.start = .adopting
        ∧ u.ord.adoption.phase = .page ∧ u.ord.adoption.page = w.getLsbD 0
        ∧ u.ord.adoption.stamp = (w >>> 16).setWidth 16
        ∧ u.ord.pageStatus = ⟨.adopting, w.getLsbD 0, (w >>> 16).setWidth 16, .none, 0, 0⟩
        ∧ .pageStatus u.ord.pageStatus ∈ u.ord.list)
    ∧ (rowlessHead s = some .nextSelector →
      let w := areaWord s offSelector
      ((s.running = false ∨ s.ord.adoption.phase ≠ .idle) → step s = .next (finish t))
      ∧ (s.running = true → s.ord.adoption.phase = .idle →
          ∃ u, step s = .next (finish u) ∧ calm u = calm s ∧ u.jwr = s.jwr ∧ u.store = s.store ∧ u.start = s.start
            ∧ u.ord.adoption = { Adoption.reset with
                phase := .page, page := w.getLsbD 0, stamp := (w >>> 16).setWidth 16 }
            ∧ u.ord.pageStatus = ⟨.adopting, w.getLsbD 0, (w >>> 16).setWidth 16, .none, 0, 0⟩
            ∧ u.ord.list = t.ord.list ++ (.pageStatus u.ord.pageStatus ::
                ((List.range 42).map OrdAccess.pageWord ++ [.pageTail])))))
  ∧ ∀ s : State,
    let reread : List OrdAccess := if s.ord.adoption.next then [.nextSelector] else []
    (s.start ≠ .waitAdoption →
      adoptionEnded s = { s with ord.adoption := Adoption.reset, ord.list := s.ord.list ++ reread })
    ∧ (s.start = .waitAdoption →
        adoptionEnded s = { s with ord.adoption := Adoption.reset, start := .selector,
                                   ord.list := s.ord.list ++ reread ++ [.startSelector] })

/-! ## Store reads of the engines, and the audio block -/

/-- R135, R137, R138, R145, R169, R170: a reader store read completes, of a header or of events; R112: a burst arrives. -/
def Obligations.EngineReadsComplete : Prop :=
  ∀ s : State, s.inReset = false →
    (∀ r, s.busy = some .scr → s.scr.read = some r →
      ∃ u, exec .scoreReadDone s = .next (finish u) ∧ u.store = s.store ∧ u.jwr = s.jwr ∧ u.busy = none
        ∧ (r.serial ≠ s.scr.serial → s.scr.state ≠ .reading →
            calm u = { calm s with scr := { s.scr with read := none } })
        ∧ (r.serial = s.scr.serial → r.kind = .header →
            readByte s.store (s.ord.regions.score.base + r.block) ≠ 0x5A →
            calm u = { calm s with scr := { s.scr with read := none, state := .waiting } })
        ∧ (r.serial = s.scr.serial → r.kind = .header → s.scr.block = some r.block →
            readByte s.store (s.ord.regions.score.base + r.block) = 0x5A →
            let h := headerAt s.store (s.ord.regions.score.base + r.block)
            r.block + 8 + 8 * h.count ≤ s.ord.regions.score.len → s.scr.index < h.count →
            s.scr.queue.length < 64 →
            calm u = { calm s with scr := { s.scr with
              state := .reading, header := some h
              read := some ⟨s.scr.serial,
                .events (min 16 (min (h.count - s.scr.index) (64 - s.scr.queue.length))), r.block, s.scr.index⟩ } })
        ∧ (∀ n, r.serial = s.scr.serial → r.kind = .events n →
            let a := s.ord.regions.score.base + (r.block + 8 + 8 * r.index)
            ∃ es : List RawEvent, es.length = n
              ∧ (∀ i, i < n → ∃ e, es[i]? = some e ∧ e.delta = readField s.store (a + 8 * i) 2
                  ∧ e.kind = readField s.store (a + 8 * i + 2) 1 ∧ e.track.val = readField s.store (a + 8 * i + 3) 1 % 4
                  ∧ e.id = readField s.store (a + 8 * i + 4) 1 ∧ e.value = readField s.store (a + 8 * i + 6) 2)
              ∧ u = readerGo (takeEvents r.block es { (endAccess s) with scr.read := none })))
    ∧ (∀ (block : Nat) (e : RawEvent) (es : List RawEvent),
        takeEvents block [] s = s
        ∧ (s.scr.state = .reading → takeEvents block (e :: es) s = takeEvents block es (takeEvent block e s))
        ∧ (s.scr.state ≠ .reading → takeEvents block (e :: es) s = s)
        ∧ (let due := min 4294967295 (s.scr.lastDue + e.delta * 48)
           let past : Reader := { s.scr with index := s.scr.index + 1, lastDue := due }
           let t := takeEvent block e s
           let skips := (e.kind = 0 ∨ 5 < e.kind) ∨ ((e.kind = 1 ∨ e.kind = 2) ∧ 88 ≤ e.id) ∨ (e.kind = 3 ∧ 2 < e.id)
             ∨ (e.kind = 4 ∧ e.id = 0)
           let joins := fun (k : EventKind) (id value : Nat) =>
             calm t = { calm s with
               scr := { past with queue := s.scr.queue ++ [⟨k, e.track, id, value, due, block, s.scr.index, false⟩]
                                  state := if k = .fin then .done else s.scr.state }
               play := { s.play with state := if s.play.state = .stalled then .playing else s.play.state } }
             ∧ (s.play.state = .stalled → noticed .playState t = true)
           (skips → t = { s with scr := past, play := { s.play with skipped := min (s.play.skipped + 1) 65535 } })
           ∧ (¬ skips → (s.play.state ≠ .seeking ∨ s.play.seek = none) →
               (e.kind = 1 → joins .note e.id (max 1 (min 127 e.value)))
               ∧ (e.kind = 2 → joins .release e.id e.value)
               ∧ (e.kind = 3 → joins .pedal e.id (min 1023 e.value))
               ∧ (e.kind = 4 → joins .mark e.id e.value)
               ∧ (e.kind = 5 → joins .fin 0 0))
           ∧ (∀ m q, ¬ skips → s.play.state = .seeking → s.play.seek = some ⟨m, q⟩ →
               ((e.kind = 1 ∨ e.kind = 2 ∨ (e.kind = 4 ∧ e.id ≠ m)) → t = { s with scr := past })
               ∧ (e.kind = 3 → t = playbackPedal e.id (min 1023 e.value) { s with scr := past })
               ∧ (e.kind = 4 → e.id = m →
                   calm t = { calm s with
                     scr := past
                     play := { s.play with
                       state := .playing, position := due, remainder := 0, seek := none
                       anchor := if s.play.loop.armed = true ∧ s.play.loop.startId = m then
                           some ⟨m, block, s.scr.index, due, s.playback.damper, s.playback.soft, s.playback.sostenuto⟩
                         else s.play.anchor } }
                   ∧ noticed .playState t = true ∧ ∀ o, q = some o → answered .play o .completed t)
               ∧ (e.kind = 5 →
                   calm t = { calm s with
                     scr := { past with queue := [], serial := s.scr.serial + 1, state := .idle, block := none,
                                        header := none }
                     play := { s.play with state := .stopped, seek := none } }
                   ∧ noticed .playState t = true ∧ ∀ o, q = some o → answered .play o .notFound t))))
    ∧ (∀ b, s.busy = some .sfu → s.burst = some b →
      ∃ u, exec .burstArrives s = .next (finish u) ∧ calm u = calm s ∧ u.store = s.store ∧ u.jwr = s.jwr
        ∧ u.busy = none
        ∧ ∃ w, u = fetchNext w ∧ w.burst = none ∧ w.fetchOrder = s.fetchOrder
          ∧ (∀ i, i ≠ b.voice → w.voices[i] = s.voices[i])
          ∧ (let v := s.voices[b.voice]
             ((v.state = .free ∨ v.serial ≠ b.serial) → w.voices[b.voice] = v)
             ∧ (v.state ≠ .free → v.serial = b.serial → w.voices[b.voice] =
                 { v with pending := false
                          buffer := v.buffer ++
                            (readFrames s.store b.addr b.size).drop (v.pos + v.buffer.length - b.first) })))

/-- R137 to R140, R169, R170: what the reader does next: FULL at 64 entries, a header or events to read, a link to follow, WAITING at the end of the chain or the seek that ends there, and the region fault of a read that would reach past SCORE, for a header before it is read and for a header taken; the header read again of a WAITING reader, and a discarded read.
The offset that a fault records (log 41), that a fault keeps the loop anchor (log 29), and that the re-read and its fault come before the rest of an audio block (log 49) are the model's. -/
def Obligations.ReaderGoesOn : Prop :=
  ∀ s : State,
    let faults := fun (off : Nat) (x : Reader) (t : State) =>
      calm t = { calm s with
        scr := { x with queue := [], serial := s.scr.serial + 1, state := .idle, block := none, header := none }
        play := { s.play with state := .ended, endCause := .region, held := KeySet.none, prompts := [], seek := none } }
      ∧ t.ord.regionFault = ⟨.score, off, min (s.ord.regionFault.count + 1) 65535⟩ ∧ noticed .regionFault t = true
      ∧ (s.play.state ≠ .ended → noticed .playState t = true ∧ t.ord.statusCall = true)
      ∧ (∀ m q, s.play.seek = some ⟨m, some q⟩ → answered .play q .notFound t)
      ∧ t.jwr = s.jwr ∧ t.store = s.store
      ∧ ∀ i : Fin 80,
          let v := s.voices[i]
          t.voices[i] =
            (if v.source = .playback ∧ (v.state = .sounding ∨ v.state = .held) then { v with state := .releasing }
             else if v.source = .playback ∧ v.state = .priming then { v with relPending := true }
             else v)
    let reads := fun (b : Nat) (x : Reader) (t : State) =>
      (b + 8 ≤ s.ord.regions.score.len →
        t = { s with scr := { x with read := some ⟨s.scr.serial, .header, b, x.index⟩ } })
      ∧ (s.ord.regions.score.len < b + 8 → faults b x t)
    let g := readerGo s
    ((s.scr.state ≠ .reading ∨ s.scr.read ≠ none) → g = s)
    ∧ (s.scr.state = .reading → s.scr.read = none →
        (64 ≤ s.scr.queue.length → g = { s with scr.state := .full })
        ∧ (s.scr.queue.length < 64 →
            (s.scr.block = none → g = s)
            ∧ (∀ b, s.scr.block = some b →
                (s.scr.header = none → reads b s.scr g)
                ∧ (∀ h, s.scr.header = some h →
                    (s.scr.index < h.count → 
                      let n := min 16 (min (h.count - s.scr.index) (64 - s.scr.queue.length))
                      g = { s with scr := { s.scr with read := some ⟨s.scr.serial, .events n, b, s.scr.index⟩ } })
                    ∧ (h.count ≤ s.scr.index → h.hasNext = true →
                        reads h.next { s.scr with block := some h.next, header := none, index := 0 } g)
                    ∧ (h.count ≤ s.scr.index → h.hasNext = false → s.play.state ≠ .seeking →
                        g = { s with scr.state := .waiting })
                    ∧ (h.count ≤ s.scr.index → h.hasNext = false → s.play.state = .seeking →
                        calm g = { calm s with
                          scr := { s.scr with queue := [], serial := s.scr.serial + 1, state := .idle, block := none,
                                              header := none }
                          play := { s.play with state := .stopped, seek := none } }
                        ∧ noticed .playState g = true ∧ g.voices = s.voices
                        ∧ (∀ m q, s.play.seek = some ⟨m, some q⟩ → answered .play q .notFound g))))))
    ∧ (∀ b,
        let at' := s.ord.regions.score.base + b
        let h := headerAt s.store at'
        let t := takeHeader b s
        (readByte s.store at' ≠ 0x5A → t = { s with scr.state := .waiting })
        ∧ (readByte s.store at' = 0x5A → b + 8 + 8 * h.count ≤ s.ord.regions.score.len →
            t = readerGo { s with scr := { s.scr with header := some h, state := .reading } })
        ∧ (readByte s.store at' = 0x5A → s.ord.regions.score.len < b + 8 + 8 * h.count →
            faults (b + 8 + 8 * s.scr.index) s.scr t)
        ∧ h.count = min 240 (readField s.store (at' + 1) 1) ∧ h.hasNext = (readByte s.store (at' + 2)).getLsbD 0
        ∧ h.next = readField s.store (at' + 4) 4 / 8 * 8)
    ∧ (∀ r, s.inReset = false → s.busy = some .scr → s.scr.read = some r →
        let f := { s with busy := none, scr.read := none }
        (r.serial = s.scr.serial → r.kind = .header →
          exec .scoreReadDone s = .next (finish (takeHeader r.block f)))
        ∧ (r.serial ≠ s.scr.serial → exec .scoreReadDone s = .next (finish (readerGo f))))
    ∧ (s.scr.state = .waiting → s.scr.read = none → ∀ b, s.scr.block = some b → reads b s.scr (reread s))
    ∧ ((s.scr.state ≠ .waiting ∨ s.scr.read ≠ none) → reread s = s)
    ∧ (∀ before, s.inReset = false → s.play.state ≠ .playing → s.play.state ≠ .waiting →
        (reread s).play.state ≠ .playing → (reread s).play.state ≠ .waiting →
        exec (.audioBlock before) s = .next (finish (soundBlock (reread s))))

/-- R106, R113 to R115, R120, R121: the voices at an audio block; R122 to R124: the mix, its clamp, the clip flag, clip count and notice; R126 to R128: the master volume and the headphone link; R130: the start of an output frame, which a waiting link request counts (R185; that it counts these is the model's choice, log 18).
R35: the release factor of a context, and its range.
That SFU tests the voices once, after all of them have consumed, is the model's choice (log 25). What the block does in PLAYING and WAITING, with the clock and the dispatches, says DispatchPlaysEvents. -/
def Obligations.AudioBlockAndFrames : Prop :=
  (∀ (set : Settings) (h : Nat),
    releaseFactor set h = ((set.kDown : Int) + Int.tdiv (((set.kUp : Int) - (set.kDown : Int)) * (h : Int)) 256).toNat
    ∧ releaseFactor set 0 = set.kDown ∧ releaseFactor set 256 = set.kUp
    ∧ (h ≤ 256 → min set.kDown set.kUp ≤ releaseFactor set h ∧ releaseFactor set h ≤ max set.kDown set.kUp))
  ∧ ∀ (before : Nat) (s : State), s.inReset = false →
    (∃ u, exec (.audioBlock before) s = .next (finish u)
      ∧ calm u = { calm s with playback := u.playback, scr := u.scr, play := u.play, mixer := u.mixer,
                               phones := u.phones, startCounter := u.startCounter, stats := u.stats }
      ∧ u.mixer.target = s.mixer.target ∧ u.mixer.framing = s.mixer.framing
      ∧ (s.mixer.mc < s.mixer.target → u.mixer.mc = min (s.mixer.mc + 4) s.mixer.target)
      ∧ (s.mixer.target < s.mixer.mc → u.mixer.mc = max (s.mixer.mc - 4) s.mixer.target)
      ∧ (s.mixer.mc = s.mixer.target → u.mixer.mc = s.mixer.mc)
      ∧ u.phones.sending = s.phones.computed ∧ u.phones.computed.length = 64 ∧ u.phones.index = 0
      ∧ u.phones.mute = s.phones.muteNext ∧ u.phones.muteNext = decide (u.mixer.mc = 0)
      ∧ (u.mixer.mc = 0 → u.phones.computed = List.replicate 64 (0, 0)))
    ∧ (s.play.state ≠ .playing → s.play.state ≠ .waiting → s.scr.state ≠ .waiting →
        exec (.audioBlock before) s = .next (finish (soundBlock s)))
    ∧ (soundBlock s).voices = (fetchNext (voiceBlock s)).voices
    ∧ (let inSet := fun v : Voice => (match v.source with | .live => s.live.held | .playback => s.playback.held)[v.key]
       let k := fun v : Voice =>
         let h := (match v.source with | .live => s.live | .playback => s.playback).h
         ((s.settings.kDown : Int)
           + Int.tdiv (((s.settings.kUp : Int) - (s.settings.kDown : Int)) * (h : Int)) 256).toNat
       let left := fun v : Voice => if v.state = .priming ∧ 0 < v.buffer.length then
         { v with relPending := false
                  state := if v.relPending then if inSet v then .held else .releasing else .sounding } else v
       let env := fun v : Voice => match (left v).state with
         | .releasing => v.env * k v / 32768
         | .fading => v.env * 16384 / 32768
         | _ => v.env
       let plays := fun v : Voice => (left v).state != .free && (left v).state != .priming && decide (16 ≤ env v)
       let n := fun v : Voice => min 64 (v.layer.length - v.pos)
       let under := voiceIds.filter fun i =>
         plays s.voices[i] && decide ((s.voices[i]).buffer.length < n s.voices[i])
       (∀ i : Fin 80,
         let v := s.voices[i]
         let w := (voiceBlock s).voices[i]
         (v.state = .free → w = v)
         ∧ (v.state ≠ .free → (env v < 16 ∨ v.layer.length ≤ v.pos + (if plays v then 64 else 0)) →
             w.state = .free ∧ w.buffer = [] ∧ w.pending = false)
         ∧ (plays v = true → v.pos + 64 < v.layer.length →
             w = { left v with env := env v, buffer := v.buffer.drop 64, pos := v.pos + 64 })
         ∧ (v.state = .priming → v.buffer = [] → 16 ≤ v.env → v.pos < v.layer.length → w = v))
       ∧ (voiceBlock s).stats.underruns = min 65535 (s.stats.underruns + under.length)
       ∧ (under ≠ [] → noticed .audioUnderrun (voiceBlock s) = true)
       ∧ (let sample := fun (i : Fin 80) (j : Nat) => if j < n s.voices[i] then ((s.voices[i]).buffer[j]?).getD (0, 0) else (0, 0)
          let share := fun (i : Fin 80) (x : Half) =>
            x.toInt * ((s.voices[i]).gain : Int) / 32768 * (env s.voices[i] : Int) / 32768
          let mixed := voiceIds.filter fun i => plays s.voices[i]
          let yl := fun j : Nat => (mixed.map fun i => share i (sample i j).1).sum * ((soundBlock s).mixer.mc : Int) / 256
          let yr := fun j : Nat => (mixed.map fun i => share i (sample i j).2).sum * ((soundBlock s).mixer.mc : Int) / 256
          let beyond := fun y : Int => y < -32768 ∨ 32767 < y
          let clamped := ∃ j, j < 64 ∧ (beyond (yl j) ∨ beyond (yr j))
          let u := soundBlock s
          u.phones.computed = ((List.range 64).map fun j =>
            (BitVec.ofInt 16 (max (-32768) (min 32767 (yl j))), BitVec.ofInt 16 (max (-32768) (min 32767 (yr j)))))
          ∧ (clamped → u.mixer.clip = true ∧ u.mixer.clipCount = min 65535 (s.mixer.clipCount + 1)
              ∧ (s.mixer.clip = false → noticed .audioClip u = true)
              ∧ (s.mixer.clip = true → u.ord.summary = (fetchNext (voiceBlock s)).ord.summary))
          ∧ (¬ clamped → u.mixer.clip = s.mixer.clip ∧ u.mixer.clipCount = s.mixer.clipCount
              ∧ u.ord.summary = (fetchNext (voiceBlock s)).ord.summary)))
    ∧ (∃ t, exec .outputFrameStart s = .next t
      ∧ (∀ f, s.phones.sending[s.phones.index]? = some f →
          t.phones = { s.phones with current := f, framing := s.mixer.framing, index := s.phones.index + 1 })
      ∧ (s.phones.sending[s.phones.index]? = none → t.phones = s.phones)
      ∧ calm t = { calm s with
          phones := t.phones
          link := { s.link with waited :=
            if s.link.request ≠ none ∧ s.busy ≠ some .link then s.link.waited + 1 else s.link.waited } })
end

