-- ==== Sys2Proof/Laws/Memory.lean ====
section
/-!
SUPPORT. The store: every operation keeps the canonical form, and a read after a write.
-/

namespace Sys2Proof.Machine

open Sys2Proof.Config

theorem wfFrom_mono {m n : Nat} {l : Memory} (h : wfFrom n l = true) (hmn : m ≤ n) : wfFrom m l = true := by
  cases l with
  | nil => rfl
  | cons c l =>
    obtain ⟨x, v⟩ := c
    simp only [wfFrom, Bool.and_eq_true, decide_eq_true_eq] at h ⊢
    exact ⟨⟨⟨by omega, h.1.1.2⟩, h.1.2⟩, h.2⟩

theorem setCell_wfFrom (a : Nat) (b : Byte) (ha : a < storeSize) :
    ∀ (l : Memory) (n : Nat), n ≤ a → wfFrom n l = true → wfFrom n (setCell l a b) = true
  | [], n, hn, _ => by
    unfold setCell
    split
    · rfl
    · simp_all [wfFrom]
  | (x, v) :: l, n, hn, h => by
    simp only [wfFrom, Bool.and_eq_true, decide_eq_true_eq] at h
    unfold setCell
    by_cases h1 : a < x
    · simp only [h1, if_true]
      split
      · simp_all [wfFrom]
      · simp_all [wfFrom] <;> omega
    · simp only [h1, if_false]
      by_cases h2 : a = x
      · subst h2
        simp only [if_true]
        split
        · exact wfFrom_mono h.2 (by omega)
        · simp_all [wfFrom]
      · simp only [h2, if_false]
        have := setCell_wfFrom a b ha l (x + 1) (by omega) h.2
        simp_all [wfFrom]

theorem writeByte_wf {m : Memory} (h : Memory.wf m = true) (a : Nat) (b : Byte) :
    Memory.wf (writeByte m a b) = true :=
  setCell_wfFrom _ b (Nat.mod_lt _ (by decide)) m 0 (Nat.zero_le _) h

theorem writeBytes_wf (bs : List Byte) : ∀ {m : Memory} (_ : Memory.wf m = true) (a : Nat),
    Memory.wf (writeBytes m a bs) = true := by
  induction bs with
  | nil => exact fun h _ => h
  | cons b bs ih => exact fun h a => ih (writeByte_wf h a b) (a + 1)

theorem writeWord_wf {m : Memory} (h : Memory.wf m = true) (a : Nat) (w : Word) :
    Memory.wf (writeWord m a w) = true := writeBytes_wf _ h a

theorem cellAt_of_wfFrom {l : Memory} : ∀ {n : Nat}, wfFrom n l = true → ∀ {a : Nat}, a < n → cellAt l a = blank := by
  induction l with
  | nil => exact fun _ _ _ => rfl
  | cons c l ih =>
    intro n h a ha
    obtain ⟨x, v⟩ := c
    simp only [wfFrom, Bool.and_eq_true, decide_eq_true_eq] at h
    unfold cellAt
    have hx : ¬ x = a := by omega
    simp only [hx, if_false]
    exact ih h.2 (by omega)

theorem cellAt_setCell_ne {l : Memory} {a c : Nat} (b : Byte) (h : c ≠ a) :
    cellAt (setCell l a b) c = cellAt l c := by
  induction l with
  | nil =>
    unfold setCell
    split
    · rfl
    · simp [cellAt, Ne.symm h]
  | cons p l ih =>
    obtain ⟨x, v⟩ := p
    unfold setCell
    split
    · split
      · rfl
      · simp [cellAt, Ne.symm h]
    · split
      · rename_i h2
        subst h2
        split
        · simp [cellAt, Ne.symm h]
        · simp [cellAt, Ne.symm h]
      · simp [cellAt, ih]

theorem cellAt_setCell_eq {a : Nat} (b : Byte) :
    ∀ {l : Memory} {n : Nat}, wfFrom n l = true → cellAt (setCell l a b) a = b
  | [], _, _ => by
    unfold setCell
    split
    · simp_all [cellAt]
    · simp [cellAt]
  | (x, v) :: l, n, h => by
    simp only [wfFrom, Bool.and_eq_true, decide_eq_true_eq] at h
    unfold setCell
    by_cases h1 : a < x
    · have hx : ¬ x = a := by omega
      simp only [h1, if_true]
      split
      · rename_i hb
        subst hb
        simp only [cellAt, hx, if_false]
        exact cellAt_of_wfFrom h.2 (by omega)
      · simp [cellAt]
    · simp only [h1, if_false]
      by_cases h2 : a = x
      · subst h2
        simp only [if_true]
        split
        · rename_i hb
          subst hb
          exact cellAt_of_wfFrom h.2 (by omega)
        · simp [cellAt]
      · have hx : ¬ x = a := fun e => h2 e.symm
        simp only [h2, if_false, cellAt, hx]
        exact cellAt_setCell_eq b h.2

/-- A byte of the store that a write does not name keeps its value. -/
theorem readByte_writeByte_ne {m : Memory} {a c : Nat} (b : Byte) (h : storeAddr c ≠ storeAddr a) :
    readByte (writeByte m a b) c = readByte m c := cellAt_setCell_ne b h

/-- A byte of a canonical store reads as it was written. -/
theorem readByte_writeByte_eq {m : Memory} (h : Memory.wf m = true) (a : Nat) (b : Byte) :
    readByte (writeByte m a b) a = b := cellAt_setCell_eq b h

/-- A byte outside the range of a write keeps its value. -/
theorem readByte_writeBytes_outside (bs : List Byte) : ∀ {m : Memory} {a c : Nat},
    (∀ i, i < bs.length → storeAddr c ≠ storeAddr (a + i)) → readByte (writeBytes m a bs) c = readByte m c := by
  induction bs with
  | nil => exact fun _ => rfl
  | cons b bs ih =>
    intro m a c h
    have h0 : storeAddr c ≠ storeAddr a := h 0 (by simp)
    unfold writeBytes
    rw [ih, readByte_writeByte_ne b h0]
    intro i hi
    have := h (i + 1) (by simpa using hi)
    rwa [show a + (i + 1) = a + 1 + i by omega] at this

theorem readBytes_congr {m m' : Memory} : ∀ {n a : Nat}, (∀ i, i < n → readByte m (a + i) = readByte m' (a + i)) →
    readBytes m a n = readBytes m' a n
  | 0, _, _ => rfl
  | n + 1, a, h => by
    unfold readBytes
    rw [show readByte m a = readByte m' a from h 0 (by omega)]
    rw [readBytes_congr (n := n) (a := a + 1)]
    intro i hi
    have := h (i + 1) (by omega)
    rwa [show a + (i + 1) = a + 1 + i by omega] at this

/-- Bytes written one after another, no more than the store holds, read back. -/
theorem readBytes_writeBytes : ∀ (bs : List Byte) {m : Memory} (_ : Memory.wf m = true) (a : Nat)
    (_ : bs.length ≤ storeSize), readBytes (writeBytes m a bs) a bs.length = bs
  | [], _, _, _, _ => rfl
  | b :: bs, m, h, a, hl => by
    simp only [List.length_cons] at hl
    unfold writeBytes
    simp only [List.length_cons, readBytes]
    rw [readBytes_writeBytes bs (writeByte_wf h a b) (a + 1) (by omega)]
    rw [readByte_writeBytes_outside bs, readByte_writeByte_eq h]
    intro i hi
    simp only [storeAddr, storeSize] at *
    omega

/-- The bytes of a number are as many as it is asked for. -/
theorem toBytes_length : ∀ (n x : Nat), (toBytes n x).length = n
  | 0, _ => rfl
  | n + 1, x => by simp [toBytes, toBytes_length n]

/-- The low `n` bytes of a number give it back, modulo what `n` bytes hold. -/
theorem ofBytes_toBytes : ∀ (n x : Nat), ofBytes (toBytes n x) = x % 256 ^ n
  | 0, x => by simp [ofBytes, toBytes, Nat.mod_one]
  | n + 1, x => by
    simp only [toBytes, ofBytes, ofBytes_toBytes n, BitVec.toNat_ofNat]
    have h : 256 ^ (n + 1) = 256 * 256 ^ n := Nat.pow_succ'
    rw [h, Nat.mod_mul (a := 256) (b := 256 ^ n)]

/-- A word written reads back. -/
theorem readWord_writeWord {m : Memory} (h : Memory.wf m = true) (a : Nat) (w : Word) :
    readWord (writeWord m a w) a = w := by
  unfold readWord readField writeWord
  have e := readBytes_writeBytes (toBytes 4 w.toNat) h a (by rw [toBytes_length]; decide)
  rw [toBytes_length] at e
  have h4 : w.toNat < 256 ^ 4 := by have := w.isLt; omega
  rw [e, ofBytes_toBytes, Nat.mod_eq_of_lt h4]
  simp

/-- The bytes of one write, at most 16 KiB, lie at different addresses of the store. -/
theorem storeAddr_inj {a i j : Nat} (hi : i < 0x4000) (hj : j < 0x4000) (h : storeAddr (a + i) = storeAddr (a + j)) :
    i = j := by
  unfold storeAddr storeSize at h
  omega

/-- A word of the store as a number is its field of four bytes. -/
theorem toNat_readWord (m : Memory) (a : Nat) : (readWord m a).toNat = readField m a 4 := by
  unfold readWord readField
  simp only [readBytes, ofBytes, BitVec.toNat_ofNat]
  have h := fun b : Byte => b.isLt
  have h0 := h (readByte m a)
  have h1 := h (readByte m (a + 1))
  have h2 := h (readByte m (a + 1 + 1))
  have h3 := h (readByte m (a + 1 + 1 + 1))
  omega

end Sys2Proof.Machine
end

