-- ==== Sys2Proof/Laws/State.lean ====
section
/-!
SUPPORT. What the plainest updates of the state leave alone: one lemma for each field and update.
-/

namespace Sys2Proof.Machine

/-! ## pushOrd -/

@[simp] theorem pushOrd_pending (a : OrdAccess) (s : State) : (pushOrd a s).pending = s.pending := rfl
@[simp] theorem pushOrd_inReset (a : OrdAccess) (s : State) : (pushOrd a s).inReset = s.inReset := rfl
@[simp] theorem pushOrd_store (a : OrdAccess) (s : State) : (pushOrd a s).store = s.store := rfl
@[simp] theorem pushOrd_area (a : OrdAccess) (s : State) : (pushOrd a s).area = s.area := rfl
@[simp] theorem pushOrd_running (a : OrdAccess) (s : State) : (pushOrd a s).running = s.running := rfl
@[simp] theorem pushOrd_runBit (a : OrdAccess) (s : State) : (pushOrd a s).runBit = s.runBit := rfl
@[simp] theorem pushOrd_stopHeld (a : OrdAccess) (s : State) : (pushOrd a s).stopHeld = s.stopHeld := rfl
@[simp] theorem pushOrd_start (a : OrdAccess) (s : State) : (pushOrd a s).start = s.start := rfl
@[simp] theorem pushOrd_areaError (a : OrdAccess) (s : State) : (pushOrd a s).areaError = s.areaError := rfl
@[simp] theorem pushOrd_lines (a : OrdAccess) (s : State) : (pushOrd a s).lines = s.lines := rfl
@[simp] theorem pushOrd_muxAddress (a : OrdAccess) (s : State) : (pushOrd a s).muxAddress = s.muxAddress := rfl
@[simp] theorem pushOrd_raw (a : OrdAccess) (s : State) : (pushOrd a s).raw = s.raw := rfl
@[simp] theorem pushOrd_scanCount (a : OrdAccess) (s : State) : (pushOrd a s).scanCount = s.scanCount := rfl
@[simp] theorem pushOrd_keys (a : OrdAccess) (s : State) : (pushOrd a s).keys = s.keys := rfl
@[simp] theorem pushOrd_pedals (a : OrdAccess) (s : State) : (pushOrd a s).pedals = s.pedals := rfl
@[simp] theorem pushOrd_lastZone (a : OrdAccess) (s : State) : (pushOrd a s).lastZone = s.lastZone := rfl
@[simp] theorem pushOrd_live (a : OrdAccess) (s : State) : (pushOrd a s).live = s.live := rfl
@[simp] theorem pushOrd_playback (a : OrdAccess) (s : State) : (pushOrd a s).playback = s.playback := rfl
@[simp] theorem pushOrd_cal (a : OrdAccess) (s : State) : (pushOrd a s).cal = s.cal := rfl
@[simp] theorem pushOrd_cap (a : OrdAccess) (s : State) : (pushOrd a s).cap = s.cap := rfl
@[simp] theorem pushOrd_jwr (a : OrdAccess) (s : State) : (pushOrd a s).jwr = s.jwr := rfl
@[simp] theorem pushOrd_rail (a : OrdAccess) (s : State) : (pushOrd a s).rail = s.rail := rfl
@[simp] theorem pushOrd_mapCopy (a : OrdAccess) (s : State) : (pushOrd a s).mapCopy = s.mapCopy := rfl
@[simp] theorem pushOrd_voices (a : OrdAccess) (s : State) : (pushOrd a s).voices = s.voices := rfl
@[simp] theorem pushOrd_startCounter (a : OrdAccess) (s : State) : (pushOrd a s).startCounter = s.startCounter := rfl
@[simp] theorem pushOrd_stats (a : OrdAccess) (s : State) : (pushOrd a s).stats = s.stats := rfl
@[simp] theorem pushOrd_fetchOrder (a : OrdAccess) (s : State) : (pushOrd a s).fetchOrder = s.fetchOrder := rfl
@[simp] theorem pushOrd_burst (a : OrdAccess) (s : State) : (pushOrd a s).burst = s.burst := rfl
@[simp] theorem pushOrd_streams (a : OrdAccess) (s : State) : (pushOrd a s).streams = s.streams := rfl
@[simp] theorem pushOrd_mixer (a : OrdAccess) (s : State) : (pushOrd a s).mixer = s.mixer := rfl
@[simp] theorem pushOrd_phones (a : OrdAccess) (s : State) : (pushOrd a s).phones = s.phones := rfl
@[simp] theorem pushOrd_scr (a : OrdAccess) (s : State) : (pushOrd a s).scr = s.scr := rfl
@[simp] theorem pushOrd_play (a : OrdAccess) (s : State) : (pushOrd a s).play = s.play := rfl
@[simp] theorem pushOrd_settings (a : OrdAccess) (s : State) : (pushOrd a s).settings = s.settings := rfl
@[simp] theorem pushOrd_busy (a : OrdAccess) (s : State) : (pushOrd a s).busy = s.busy := rfl
@[simp] theorem pushOrd_link (a : OrdAccess) (s : State) : (pushOrd a s).link = s.link := rfl

/-! ## pushOrds -/

@[simp] theorem pushOrds_pending (l : List OrdAccess) (s : State) : (pushOrds l s).pending = s.pending := rfl
@[simp] theorem pushOrds_inReset (l : List OrdAccess) (s : State) : (pushOrds l s).inReset = s.inReset := rfl
@[simp] theorem pushOrds_store (l : List OrdAccess) (s : State) : (pushOrds l s).store = s.store := rfl
@[simp] theorem pushOrds_area (l : List OrdAccess) (s : State) : (pushOrds l s).area = s.area := rfl
@[simp] theorem pushOrds_running (l : List OrdAccess) (s : State) : (pushOrds l s).running = s.running := rfl
@[simp] theorem pushOrds_runBit (l : List OrdAccess) (s : State) : (pushOrds l s).runBit = s.runBit := rfl
@[simp] theorem pushOrds_stopHeld (l : List OrdAccess) (s : State) : (pushOrds l s).stopHeld = s.stopHeld := rfl
@[simp] theorem pushOrds_start (l : List OrdAccess) (s : State) : (pushOrds l s).start = s.start := rfl
@[simp] theorem pushOrds_areaError (l : List OrdAccess) (s : State) : (pushOrds l s).areaError = s.areaError := rfl
@[simp] theorem pushOrds_lines (l : List OrdAccess) (s : State) : (pushOrds l s).lines = s.lines := rfl
@[simp] theorem pushOrds_muxAddress (l : List OrdAccess) (s : State) : (pushOrds l s).muxAddress = s.muxAddress := rfl
@[simp] theorem pushOrds_raw (l : List OrdAccess) (s : State) : (pushOrds l s).raw = s.raw := rfl
@[simp] theorem pushOrds_scanCount (l : List OrdAccess) (s : State) : (pushOrds l s).scanCount = s.scanCount := rfl
@[simp] theorem pushOrds_keys (l : List OrdAccess) (s : State) : (pushOrds l s).keys = s.keys := rfl
@[simp] theorem pushOrds_pedals (l : List OrdAccess) (s : State) : (pushOrds l s).pedals = s.pedals := rfl
@[simp] theorem pushOrds_lastZone (l : List OrdAccess) (s : State) : (pushOrds l s).lastZone = s.lastZone := rfl
@[simp] theorem pushOrds_live (l : List OrdAccess) (s : State) : (pushOrds l s).live = s.live := rfl
@[simp] theorem pushOrds_playback (l : List OrdAccess) (s : State) : (pushOrds l s).playback = s.playback := rfl
@[simp] theorem pushOrds_cal (l : List OrdAccess) (s : State) : (pushOrds l s).cal = s.cal := rfl
@[simp] theorem pushOrds_cap (l : List OrdAccess) (s : State) : (pushOrds l s).cap = s.cap := rfl
@[simp] theorem pushOrds_jwr (l : List OrdAccess) (s : State) : (pushOrds l s).jwr = s.jwr := rfl
@[simp] theorem pushOrds_rail (l : List OrdAccess) (s : State) : (pushOrds l s).rail = s.rail := rfl
@[simp] theorem pushOrds_mapCopy (l : List OrdAccess) (s : State) : (pushOrds l s).mapCopy = s.mapCopy := rfl
@[simp] theorem pushOrds_voices (l : List OrdAccess) (s : State) : (pushOrds l s).voices = s.voices := rfl
@[simp] theorem pushOrds_startCounter (l : List OrdAccess) (s : State) : (pushOrds l s).startCounter = s.startCounter := rfl
@[simp] theorem pushOrds_stats (l : List OrdAccess) (s : State) : (pushOrds l s).stats = s.stats := rfl
@[simp] theorem pushOrds_fetchOrder (l : List OrdAccess) (s : State) : (pushOrds l s).fetchOrder = s.fetchOrder := rfl
@[simp] theorem pushOrds_burst (l : List OrdAccess) (s : State) : (pushOrds l s).burst = s.burst := rfl
@[simp] theorem pushOrds_streams (l : List OrdAccess) (s : State) : (pushOrds l s).streams = s.streams := rfl
@[simp] theorem pushOrds_mixer (l : List OrdAccess) (s : State) : (pushOrds l s).mixer = s.mixer := rfl
@[simp] theorem pushOrds_phones (l : List OrdAccess) (s : State) : (pushOrds l s).phones = s.phones := rfl
@[simp] theorem pushOrds_scr (l : List OrdAccess) (s : State) : (pushOrds l s).scr = s.scr := rfl
@[simp] theorem pushOrds_play (l : List OrdAccess) (s : State) : (pushOrds l s).play = s.play := rfl
@[simp] theorem pushOrds_settings (l : List OrdAccess) (s : State) : (pushOrds l s).settings = s.settings := rfl
@[simp] theorem pushOrds_busy (l : List OrdAccess) (s : State) : (pushOrds l s).busy = s.busy := rfl
@[simp] theorem pushOrds_link (l : List OrdAccess) (s : State) : (pushOrds l s).link = s.link := rfl

/-! ## handItem -/

@[simp] theorem handItem_pending (i : JournalItem) (s : State) : (handItem i s).pending = s.pending := rfl
@[simp] theorem handItem_inReset (i : JournalItem) (s : State) : (handItem i s).inReset = s.inReset := rfl
@[simp] theorem handItem_store (i : JournalItem) (s : State) : (handItem i s).store = s.store := rfl
@[simp] theorem handItem_area (i : JournalItem) (s : State) : (handItem i s).area = s.area := rfl
@[simp] theorem handItem_running (i : JournalItem) (s : State) : (handItem i s).running = s.running := rfl
@[simp] theorem handItem_runBit (i : JournalItem) (s : State) : (handItem i s).runBit = s.runBit := rfl
@[simp] theorem handItem_stopHeld (i : JournalItem) (s : State) : (handItem i s).stopHeld = s.stopHeld := rfl
@[simp] theorem handItem_start (i : JournalItem) (s : State) : (handItem i s).start = s.start := rfl
@[simp] theorem handItem_areaError (i : JournalItem) (s : State) : (handItem i s).areaError = s.areaError := rfl
@[simp] theorem handItem_lines (i : JournalItem) (s : State) : (handItem i s).lines = s.lines := rfl
@[simp] theorem handItem_muxAddress (i : JournalItem) (s : State) : (handItem i s).muxAddress = s.muxAddress := rfl
@[simp] theorem handItem_raw (i : JournalItem) (s : State) : (handItem i s).raw = s.raw := rfl
@[simp] theorem handItem_scanCount (i : JournalItem) (s : State) : (handItem i s).scanCount = s.scanCount := rfl
@[simp] theorem handItem_keys (i : JournalItem) (s : State) : (handItem i s).keys = s.keys := rfl
@[simp] theorem handItem_pedals (i : JournalItem) (s : State) : (handItem i s).pedals = s.pedals := rfl
@[simp] theorem handItem_lastZone (i : JournalItem) (s : State) : (handItem i s).lastZone = s.lastZone := rfl
@[simp] theorem handItem_live (i : JournalItem) (s : State) : (handItem i s).live = s.live := rfl
@[simp] theorem handItem_playback (i : JournalItem) (s : State) : (handItem i s).playback = s.playback := rfl
@[simp] theorem handItem_cal (i : JournalItem) (s : State) : (handItem i s).cal = s.cal := rfl
@[simp] theorem handItem_cap (i : JournalItem) (s : State) : (handItem i s).cap = s.cap := rfl
@[simp] theorem handItem_rail (i : JournalItem) (s : State) : (handItem i s).rail = s.rail := rfl
@[simp] theorem handItem_mapCopy (i : JournalItem) (s : State) : (handItem i s).mapCopy = s.mapCopy := rfl
@[simp] theorem handItem_voices (i : JournalItem) (s : State) : (handItem i s).voices = s.voices := rfl
@[simp] theorem handItem_startCounter (i : JournalItem) (s : State) : (handItem i s).startCounter = s.startCounter := rfl
@[simp] theorem handItem_stats (i : JournalItem) (s : State) : (handItem i s).stats = s.stats := rfl
@[simp] theorem handItem_fetchOrder (i : JournalItem) (s : State) : (handItem i s).fetchOrder = s.fetchOrder := rfl
@[simp] theorem handItem_burst (i : JournalItem) (s : State) : (handItem i s).burst = s.burst := rfl
@[simp] theorem handItem_streams (i : JournalItem) (s : State) : (handItem i s).streams = s.streams := rfl
@[simp] theorem handItem_mixer (i : JournalItem) (s : State) : (handItem i s).mixer = s.mixer := rfl
@[simp] theorem handItem_phones (i : JournalItem) (s : State) : (handItem i s).phones = s.phones := rfl
@[simp] theorem handItem_scr (i : JournalItem) (s : State) : (handItem i s).scr = s.scr := rfl
@[simp] theorem handItem_play (i : JournalItem) (s : State) : (handItem i s).play = s.play := rfl
@[simp] theorem handItem_settings (i : JournalItem) (s : State) : (handItem i s).settings = s.settings := rfl
@[simp] theorem handItem_ord (i : JournalItem) (s : State) : (handItem i s).ord = s.ord := rfl
@[simp] theorem handItem_busy (i : JournalItem) (s : State) : (handItem i s).busy = s.busy := rfl
@[simp] theorem handItem_link (i : JournalItem) (s : State) : (handItem i s).link = s.link := rfl

/-! ## writeArea -/

@[simp] theorem writeArea_pending (off : Nat) (bs : List Byte) (s : State) : (writeArea off bs s).pending = s.pending := rfl
@[simp] theorem writeArea_inReset (off : Nat) (bs : List Byte) (s : State) : (writeArea off bs s).inReset = s.inReset := rfl
@[simp] theorem writeArea_area (off : Nat) (bs : List Byte) (s : State) : (writeArea off bs s).area = s.area := rfl
@[simp] theorem writeArea_running (off : Nat) (bs : List Byte) (s : State) : (writeArea off bs s).running = s.running := rfl
@[simp] theorem writeArea_runBit (off : Nat) (bs : List Byte) (s : State) : (writeArea off bs s).runBit = s.runBit := rfl
@[simp] theorem writeArea_stopHeld (off : Nat) (bs : List Byte) (s : State) : (writeArea off bs s).stopHeld = s.stopHeld := rfl
@[simp] theorem writeArea_start (off : Nat) (bs : List Byte) (s : State) : (writeArea off bs s).start = s.start := rfl
@[simp] theorem writeArea_areaError (off : Nat) (bs : List Byte) (s : State) : (writeArea off bs s).areaError = s.areaError := rfl
@[simp] theorem writeArea_lines (off : Nat) (bs : List Byte) (s : State) : (writeArea off bs s).lines = s.lines := rfl
@[simp] theorem writeArea_muxAddress (off : Nat) (bs : List Byte) (s : State) : (writeArea off bs s).muxAddress = s.muxAddress := rfl
@[simp] theorem writeArea_raw (off : Nat) (bs : List Byte) (s : State) : (writeArea off bs s).raw = s.raw := rfl
@[simp] theorem writeArea_scanCount (off : Nat) (bs : List Byte) (s : State) : (writeArea off bs s).scanCount = s.scanCount := rfl
@[simp] theorem writeArea_keys (off : Nat) (bs : List Byte) (s : State) : (writeArea off bs s).keys = s.keys := rfl
@[simp] theorem writeArea_pedals (off : Nat) (bs : List Byte) (s : State) : (writeArea off bs s).pedals = s.pedals := rfl
@[simp] theorem writeArea_lastZone (off : Nat) (bs : List Byte) (s : State) : (writeArea off bs s).lastZone = s.lastZone := rfl
@[simp] theorem writeArea_live (off : Nat) (bs : List Byte) (s : State) : (writeArea off bs s).live = s.live := rfl
@[simp] theorem writeArea_playback (off : Nat) (bs : List Byte) (s : State) : (writeArea off bs s).playback = s.playback := rfl
@[simp] theorem writeArea_cal (off : Nat) (bs : List Byte) (s : State) : (writeArea off bs s).cal = s.cal := rfl
@[simp] theorem writeArea_cap (off : Nat) (bs : List Byte) (s : State) : (writeArea off bs s).cap = s.cap := rfl
@[simp] theorem writeArea_jwr (off : Nat) (bs : List Byte) (s : State) : (writeArea off bs s).jwr = s.jwr := rfl
@[simp] theorem writeArea_rail (off : Nat) (bs : List Byte) (s : State) : (writeArea off bs s).rail = s.rail := rfl
@[simp] theorem writeArea_mapCopy (off : Nat) (bs : List Byte) (s : State) : (writeArea off bs s).mapCopy = s.mapCopy := rfl
@[simp] theorem writeArea_voices (off : Nat) (bs : List Byte) (s : State) : (writeArea off bs s).voices = s.voices := rfl
@[simp] theorem writeArea_startCounter (off : Nat) (bs : List Byte) (s : State) : (writeArea off bs s).startCounter = s.startCounter := rfl
@[simp] theorem writeArea_stats (off : Nat) (bs : List Byte) (s : State) : (writeArea off bs s).stats = s.stats := rfl
@[simp] theorem writeArea_fetchOrder (off : Nat) (bs : List Byte) (s : State) : (writeArea off bs s).fetchOrder = s.fetchOrder := rfl
@[simp] theorem writeArea_burst (off : Nat) (bs : List Byte) (s : State) : (writeArea off bs s).burst = s.burst := rfl
@[simp] theorem writeArea_streams (off : Nat) (bs : List Byte) (s : State) : (writeArea off bs s).streams = s.streams := rfl
@[simp] theorem writeArea_mixer (off : Nat) (bs : List Byte) (s : State) : (writeArea off bs s).mixer = s.mixer := rfl
@[simp] theorem writeArea_phones (off : Nat) (bs : List Byte) (s : State) : (writeArea off bs s).phones = s.phones := rfl
@[simp] theorem writeArea_scr (off : Nat) (bs : List Byte) (s : State) : (writeArea off bs s).scr = s.scr := rfl
@[simp] theorem writeArea_play (off : Nat) (bs : List Byte) (s : State) : (writeArea off bs s).play = s.play := rfl
@[simp] theorem writeArea_settings (off : Nat) (bs : List Byte) (s : State) : (writeArea off bs s).settings = s.settings := rfl
@[simp] theorem writeArea_ord (off : Nat) (bs : List Byte) (s : State) : (writeArea off bs s).ord = s.ord := rfl
@[simp] theorem writeArea_busy (off : Nat) (bs : List Byte) (s : State) : (writeArea off bs s).busy = s.busy := rfl
@[simp] theorem writeArea_link (off : Nat) (bs : List Byte) (s : State) : (writeArea off bs s).link = s.link := rfl

/-! ## setVoice -/

@[simp] theorem setVoice_pending (i : Fin 80) (v : Voice) (s : State) : (setVoice i v s).pending = s.pending := rfl
@[simp] theorem setVoice_inReset (i : Fin 80) (v : Voice) (s : State) : (setVoice i v s).inReset = s.inReset := rfl
@[simp] theorem setVoice_store (i : Fin 80) (v : Voice) (s : State) : (setVoice i v s).store = s.store := rfl
@[simp] theorem setVoice_area (i : Fin 80) (v : Voice) (s : State) : (setVoice i v s).area = s.area := rfl
@[simp] theorem setVoice_running (i : Fin 80) (v : Voice) (s : State) : (setVoice i v s).running = s.running := rfl
@[simp] theorem setVoice_runBit (i : Fin 80) (v : Voice) (s : State) : (setVoice i v s).runBit = s.runBit := rfl
@[simp] theorem setVoice_stopHeld (i : Fin 80) (v : Voice) (s : State) : (setVoice i v s).stopHeld = s.stopHeld := rfl
@[simp] theorem setVoice_start (i : Fin 80) (v : Voice) (s : State) : (setVoice i v s).start = s.start := rfl
@[simp] theorem setVoice_areaError (i : Fin 80) (v : Voice) (s : State) : (setVoice i v s).areaError = s.areaError := rfl
@[simp] theorem setVoice_lines (i : Fin 80) (v : Voice) (s : State) : (setVoice i v s).lines = s.lines := rfl
@[simp] theorem setVoice_muxAddress (i : Fin 80) (v : Voice) (s : State) : (setVoice i v s).muxAddress = s.muxAddress := rfl
@[simp] theorem setVoice_raw (i : Fin 80) (v : Voice) (s : State) : (setVoice i v s).raw = s.raw := rfl
@[simp] theorem setVoice_scanCount (i : Fin 80) (v : Voice) (s : State) : (setVoice i v s).scanCount = s.scanCount := rfl
@[simp] theorem setVoice_keys (i : Fin 80) (v : Voice) (s : State) : (setVoice i v s).keys = s.keys := rfl
@[simp] theorem setVoice_pedals (i : Fin 80) (v : Voice) (s : State) : (setVoice i v s).pedals = s.pedals := rfl
@[simp] theorem setVoice_lastZone (i : Fin 80) (v : Voice) (s : State) : (setVoice i v s).lastZone = s.lastZone := rfl
@[simp] theorem setVoice_live (i : Fin 80) (v : Voice) (s : State) : (setVoice i v s).live = s.live := rfl
@[simp] theorem setVoice_playback (i : Fin 80) (v : Voice) (s : State) : (setVoice i v s).playback = s.playback := rfl
@[simp] theorem setVoice_cal (i : Fin 80) (v : Voice) (s : State) : (setVoice i v s).cal = s.cal := rfl
@[simp] theorem setVoice_cap (i : Fin 80) (v : Voice) (s : State) : (setVoice i v s).cap = s.cap := rfl
@[simp] theorem setVoice_jwr (i : Fin 80) (v : Voice) (s : State) : (setVoice i v s).jwr = s.jwr := rfl
@[simp] theorem setVoice_rail (i : Fin 80) (v : Voice) (s : State) : (setVoice i v s).rail = s.rail := rfl
@[simp] theorem setVoice_mapCopy (i : Fin 80) (v : Voice) (s : State) : (setVoice i v s).mapCopy = s.mapCopy := rfl
@[simp] theorem setVoice_startCounter (i : Fin 80) (v : Voice) (s : State) : (setVoice i v s).startCounter = s.startCounter := rfl
@[simp] theorem setVoice_stats (i : Fin 80) (v : Voice) (s : State) : (setVoice i v s).stats = s.stats := rfl
@[simp] theorem setVoice_fetchOrder (i : Fin 80) (v : Voice) (s : State) : (setVoice i v s).fetchOrder = s.fetchOrder := rfl
@[simp] theorem setVoice_burst (i : Fin 80) (v : Voice) (s : State) : (setVoice i v s).burst = s.burst := rfl
@[simp] theorem setVoice_streams (i : Fin 80) (v : Voice) (s : State) : (setVoice i v s).streams = s.streams := rfl
@[simp] theorem setVoice_mixer (i : Fin 80) (v : Voice) (s : State) : (setVoice i v s).mixer = s.mixer := rfl
@[simp] theorem setVoice_phones (i : Fin 80) (v : Voice) (s : State) : (setVoice i v s).phones = s.phones := rfl
@[simp] theorem setVoice_scr (i : Fin 80) (v : Voice) (s : State) : (setVoice i v s).scr = s.scr := rfl
@[simp] theorem setVoice_play (i : Fin 80) (v : Voice) (s : State) : (setVoice i v s).play = s.play := rfl
@[simp] theorem setVoice_settings (i : Fin 80) (v : Voice) (s : State) : (setVoice i v s).settings = s.settings := rfl
@[simp] theorem setVoice_ord (i : Fin 80) (v : Voice) (s : State) : (setVoice i v s).ord = s.ord := rfl
@[simp] theorem setVoice_busy (i : Fin 80) (v : Voice) (s : State) : (setVoice i v s).busy = s.busy := rfl
@[simp] theorem setVoice_link (i : Fin 80) (v : Voice) (s : State) : (setVoice i v s).link = s.link := rfl

/-! ## endAccess -/

@[simp] theorem endAccess_pending (s : State) : (endAccess s).pending = s.pending := rfl
@[simp] theorem endAccess_inReset (s : State) : (endAccess s).inReset = s.inReset := rfl
@[simp] theorem endAccess_store (s : State) : (endAccess s).store = s.store := rfl
@[simp] theorem endAccess_area (s : State) : (endAccess s).area = s.area := rfl
@[simp] theorem endAccess_running (s : State) : (endAccess s).running = s.running := rfl
@[simp] theorem endAccess_runBit (s : State) : (endAccess s).runBit = s.runBit := rfl
@[simp] theorem endAccess_stopHeld (s : State) : (endAccess s).stopHeld = s.stopHeld := rfl
@[simp] theorem endAccess_start (s : State) : (endAccess s).start = s.start := rfl
@[simp] theorem endAccess_areaError (s : State) : (endAccess s).areaError = s.areaError := rfl
@[simp] theorem endAccess_lines (s : State) : (endAccess s).lines = s.lines := rfl
@[simp] theorem endAccess_muxAddress (s : State) : (endAccess s).muxAddress = s.muxAddress := rfl
@[simp] theorem endAccess_raw (s : State) : (endAccess s).raw = s.raw := rfl
@[simp] theorem endAccess_scanCount (s : State) : (endAccess s).scanCount = s.scanCount := rfl
@[simp] theorem endAccess_keys (s : State) : (endAccess s).keys = s.keys := rfl
@[simp] theorem endAccess_pedals (s : State) : (endAccess s).pedals = s.pedals := rfl
@[simp] theorem endAccess_lastZone (s : State) : (endAccess s).lastZone = s.lastZone := rfl
@[simp] theorem endAccess_live (s : State) : (endAccess s).live = s.live := rfl
@[simp] theorem endAccess_playback (s : State) : (endAccess s).playback = s.playback := rfl
@[simp] theorem endAccess_cal (s : State) : (endAccess s).cal = s.cal := rfl
@[simp] theorem endAccess_cap (s : State) : (endAccess s).cap = s.cap := rfl
@[simp] theorem endAccess_jwr (s : State) : (endAccess s).jwr = s.jwr := rfl
@[simp] theorem endAccess_rail (s : State) : (endAccess s).rail = s.rail := rfl
@[simp] theorem endAccess_mapCopy (s : State) : (endAccess s).mapCopy = s.mapCopy := rfl
@[simp] theorem endAccess_voices (s : State) : (endAccess s).voices = s.voices := rfl
@[simp] theorem endAccess_startCounter (s : State) : (endAccess s).startCounter = s.startCounter := rfl
@[simp] theorem endAccess_stats (s : State) : (endAccess s).stats = s.stats := rfl
@[simp] theorem endAccess_fetchOrder (s : State) : (endAccess s).fetchOrder = s.fetchOrder := rfl
@[simp] theorem endAccess_burst (s : State) : (endAccess s).burst = s.burst := rfl
@[simp] theorem endAccess_streams (s : State) : (endAccess s).streams = s.streams := rfl
@[simp] theorem endAccess_mixer (s : State) : (endAccess s).mixer = s.mixer := rfl
@[simp] theorem endAccess_phones (s : State) : (endAccess s).phones = s.phones := rfl
@[simp] theorem endAccess_scr (s : State) : (endAccess s).scr = s.scr := rfl
@[simp] theorem endAccess_play (s : State) : (endAccess s).play = s.play := rfl
@[simp] theorem endAccess_settings (s : State) : (endAccess s).settings = s.settings := rfl
@[simp] theorem endAccess_ord (s : State) : (endAccess s).ord = s.ord := rfl
@[simp] theorem endAccess_link (s : State) : (endAccess s).link = s.link := rfl

/-! ## What they change -/

@[simp] theorem pushOrd_list (a : OrdAccess) (s : State) : (pushOrd a s).ord.list = s.ord.list ++ [a] := rfl
@[simp] theorem pushOrds_list (l : List OrdAccess) (s : State) : (pushOrds l s).ord.list = s.ord.list ++ l := rfl
@[simp] theorem pushOrd_summary (a : OrdAccess) (s : State) : (pushOrd a s).ord.summary = s.ord.summary := rfl
@[simp] theorem pushOrds_summary (l : List OrdAccess) (s : State) : (pushOrds l s).ord.summary = s.ord.summary := rfl
@[simp] theorem pushOrd_triggers (a : OrdAccess) (s : State) : (pushOrd a s).ord.triggers = s.ord.triggers := rfl
@[simp] theorem pushOrds_triggers (l : List OrdAccess) (s : State) : (pushOrds l s).ord.triggers = s.ord.triggers := rfl
@[simp] theorem pushOrd_regions (a : OrdAccess) (s : State) : (pushOrd a s).ord.regions = s.ord.regions := rfl
@[simp] theorem pushOrds_regions (l : List OrdAccess) (s : State) : (pushOrds l s).ord.regions = s.ord.regions := rfl
@[simp] theorem handItem_hand (i : JournalItem) (s : State) : (handItem i s).jwr.hand = s.jwr.hand ++ [i] := rfl
@[simp] theorem writeArea_store (off : Nat) (bs : List Byte) (s : State) :
    (writeArea off bs s).store = writeBytes s.store (areaAddr s off) bs := rfl
@[simp] theorem endAccess_busy (s : State) : (endAccess s).busy = none := rfl
@[simp] theorem setVoice_voices (i : Fin 80) (v : Voice) (s : State) :
    (setVoice i v s).voices = s.voices.set i.val v i.isLt := rfl

end Sys2Proof.Machine
end

