-- ==== Sys2Proof/Laws/Bookkeeping.lean ====
section
/-!
SUPPORT. What the common operations (notices, answers, journal records, JWR's work on its hand, the arbiter's grants and `finish`) can do, said once: `Quiet s t` holds between a state and what any of them leaves.
-/

namespace Sys2Proof.Machine

open Sys2Proof.Config

/-- Accesses of ORD that stay in its list until a command of their own ends them. -/
def OrdAccess.kept : OrdAccess → Bool
  | .answer _ _ _ | .pageStatus _ | .trigger _ | .pageTail => true
  | _ => false

/-- The bits that the common operations may set: JOURNAL_LEVEL, JOURNAL_GAP and REGION_FAULT. -/
def commonBits : Half := 0x2003

/-- What the common operations leave alone. -/
structure Quiet (s t : State) : Prop where
  calm     : calm t = calm s
  triggers : t.ord.triggers = s.ord.triggers
  kept     : ∀ a, a.kept = true → a ∈ s.ord.list → a ∈ t.ord.list
  grows    : s.ord.summary &&& t.ord.summary = s.ord.summary
  others   : t.ord.summary &&& ~~~commonBits = s.ord.summary &&& ~~~commonBits
  busy     : s.busy ≠ none → t.busy = s.busy
  wf       : Memory.wf s.store = true → Memory.wf t.store = true
  list     : listSound s → listSound t
  outside  : listSound s → areaSound s → ∀ a, outsideArea s a → readByte t.store a = readByte s.store a
  voices   : t.voices = s.voices
  fetching : t.fetchOrder = s.fetchOrder ∧ t.burst = s.burst

theorem Quiet.refl (s : State) : Quiet s s where
  calm := rfl
  triggers := rfl
  kept := fun _ _ h => h
  grows := by simp
  others := rfl
  busy := fun _ => rfl
  wf := id
  list := id
  outside := fun _ _ _ _ => rfl
  voices := rfl
  fetching := ⟨rfl, rfl⟩

theorem area_of_calm {s t : State} (h : calm t = calm s) : t.area = s.area := congrArg Calm.area h

theorem Quiet.trans {s t u : State} (h : Quiet s t) (k : Quiet t u) : Quiet s u where
  calm := k.calm.trans h.calm
  triggers := k.triggers.trans h.triggers
  kept := fun a ha hm => k.kept a ha (h.kept a ha hm)
  grows := by
    have h1 := h.grows
    have h2 := k.grows
    rw [← h1, BitVec.and_assoc, h2]
  others := k.others.trans h.others
  busy := fun hb => by
    have := h.busy hb
    rw [k.busy (by rw [this]; exact hb), this]
  wf := fun hw => k.wf (h.wf hw)
  list := fun hl => k.list (h.list hl)
  outside := fun hl ha a ho => by
    have he := area_of_calm h.calm
    have ho' : outsideArea t a := by unfold outsideArea at *; rw [he]; exact ho
    have ha' : areaSound t := by unfold areaSound at *; rw [he]; exact ha
    rw [k.outside (h.list hl) ha' a ho', h.outside hl ha a ho]
  voices := k.voices.trans h.voices
  fetching := ⟨k.fetching.1.trans h.fetching.1, k.fetching.2.trans h.fetching.2⟩

/-! ## ORD's list -/

theorem sound_of_none {a : OrdAccess} (h : ∀ sum, a.write sum = none) : a.sound := by
  intro sum off bytes hw
  rw [h sum] at hw
  cases hw

theorem length_toBytes : ∀ (n x : Nat), (toBytes n x).length = n
  | 0, _ => rfl
  | n + 1, x => by simp [toBytes, length_toBytes n]

theorem sound_summary : OrdAccess.summary.sound := by
  intro sum off bytes hw
  simp only [OrdAccess.write, Option.some.injEq, Prod.mk.injEq] at hw
  obtain ⟨rfl, rfl⟩ := hw
  simp [length_toBytes, offSummary]

theorem sound_answer (slot : Slot) (seq : Half) (r : Result) : (OrdAccess.answer slot seq r).sound := by
  intro sum off bytes hw
  simp only [OrdAccess.write, Option.some.injEq, Prod.mk.injEq] at hw
  obtain ⟨rfl, rfl⟩ := hw
  cases slot <;> simp [answerBytes, length_toBytes, answerOffset, slotNumber]

theorem sound_pageStatus (v : PageStatus) : (OrdAccess.pageStatus v).sound := by
  intro sum off bytes hw
  simp only [OrdAccess.write, Option.some.injEq, Prod.mk.injEq] at hw
  obtain ⟨rfl, rfl⟩ := hw
  simp [pageStatusBytes, flagByte, length_toBytes, offPageStatus]

/-- What queueing sound accesses does. -/
theorem quiet_pushOrds {l : List OrdAccess} (s : State) (hl : ∀ a ∈ l, a.sound) : Quiet s (pushOrds l s) where
  calm := rfl
  triggers := rfl
  kept := fun a _ h => by simp [h]
  grows := by simp
  others := rfl
  busy := fun _ => rfl
  wf := id
  list := fun h a ha => by
    simp only [pushOrds_list, List.mem_append] at ha
    exact ha.elim (h a) (hl a)
  outside := fun _ _ _ _ => rfl
  voices := rfl
  fetching := ⟨rfl, rfl⟩

theorem quiet_pushOrd {a : OrdAccess} (s : State) (h : a.sound) : Quiet s (pushOrd a s) :=
  quiet_pushOrds s (l := [a]) (by simpa using h)

theorem quiet_queueSummary (s : State) : Quiet s (queueSummary s) := by
  unfold queueSummary
  split
  · exact Quiet.refl s
  · exact quiet_pushOrd s sound_summary

theorem quiet_answer (slot : Slot) (seq : Half) (r : Result) (s : State) : Quiet s (answer slot seq r s) :=
  quiet_pushOrd s (sound_answer slot seq r)

theorem quiet_answerOwed (slot : Slot) (seq : Option Half) (r : Result) (s : State) :
    Quiet s (answerOwed slot seq r s) := by
  unfold answerOwed
  split
  · exact quiet_answer _ _ _ _
  · exact Quiet.refl s

/-! ## Notices -/

/-- A notice changes the summary and ORD's list and nothing else. -/
theorem notice_eq (n : Notice) (s : State) :
    ∃ l, (l = [] ∨ l = [OrdAccess.summary]) ∧
      notice n s = { s with ord.summary := s.ord.summary ||| n.word, ord.list := s.ord.list ++ l } := by
  unfold notice setSummary
  split
  · rename_i h
    refine ⟨[], Or.inl rfl, ?_⟩
    rw [h]
    simp
  · unfold queueSummary
    split
    · exact ⟨[], Or.inl rfl, by simp⟩
    · exact ⟨[.summary], Or.inr rfl, rfl⟩

@[simp] theorem notice_calm (n : Notice) (s : State) : calm (notice n s) = calm s := by
  obtain ⟨l, _, h⟩ := notice_eq n s
  rw [h]
  rfl

@[simp] theorem notice_summary (n : Notice) (s : State) :
    (notice n s).ord.summary = s.ord.summary ||| n.word := by
  obtain ⟨l, _, h⟩ := notice_eq n s
  rw [h]

@[simp] theorem notice_jwr (n : Notice) (s : State) : (notice n s).jwr = s.jwr := by
  obtain ⟨l, _, h⟩ := notice_eq n s
  rw [h]

@[simp] theorem notice_voices (n : Notice) (s : State) : (notice n s).voices = s.voices := by
  obtain ⟨l, _, h⟩ := notice_eq n s
  rw [h]

@[simp] theorem notice_store (n : Notice) (s : State) : (notice n s).store = s.store := by
  obtain ⟨l, _, h⟩ := notice_eq n s
  rw [h]

@[simp] theorem notice_busy (n : Notice) (s : State) : (notice n s).busy = s.busy := by
  obtain ⟨l, _, h⟩ := notice_eq n s
  rw [h]

/-- A notice of a common bit is quiet. -/
theorem quiet_notice (n : Notice) (s : State) (hn : n.word &&& ~~~commonBits = 0) : Quiet s (notice n s) := by
  obtain ⟨l, hl, h⟩ := notice_eq n s
  rw [h]
  exact {
    calm := rfl
    triggers := rfl
    kept := fun a _ hm => by simp [hm]
    grows := by
      ext i hi
      simp
      intro h
      simp [h]
    others := by
      ext i hi
      have hb : (n.word[i] && (~~~commonBits)[i]) = false := by
        rw [← BitVec.getElem_and, hn]
        simp
      rw [BitVec.getElem_and, BitVec.getElem_and, BitVec.getElem_or]
      generalize n.word[i] = w at hb ⊢
      generalize (~~~commonBits)[i] = c at hb ⊢
      generalize s.ord.summary[i] = x
      revert hb
      cases w <;> cases c <;> cases x <;> decide
    busy := fun _ => rfl
    wf := id
    list := fun hs a ha => by
      simp only [List.mem_append] at ha
      rcases ha with ha | ha
      · exact hs a ha
      · rcases hl with rfl | rfl
        · cases ha
        · simp only [List.mem_singleton] at ha
          subst ha
          exact sound_summary
    outside := fun _ _ _ _ => rfl
    voices := rfl
    fetching := ⟨rfl, rfl⟩ }

theorem quiet_noticeIf (c : Bool) (n : Notice) (s : State) (hn : n.word &&& ~~~commonBits = 0) :
    Quiet s (noticeIf c n s) := by
  unfold noticeIf
  split
  · exact quiet_notice n s hn
  · exact Quiet.refl s

/-! ## JWR -/

/-- A change of JWR's record alone is quiet. -/
theorem quiet_jwr (s : State) (j : Journal) : Quiet s { s with jwr := j } where
  calm := rfl
  triggers := rfl
  kept := fun _ _ h => h
  grows := by simp
  others := rfl
  busy := fun _ => rfl
  wf := id
  list := id
  outside := fun _ _ _ _ => rfl
  voices := rfl
  fetching := ⟨rfl, rfl⟩

theorem quiet_evaluateLevel (s : State) : Quiet s (evaluateLevel s) :=
  quiet_noticeIf _ _ _ (by decide)

theorem quiet_loseRecord (ans : Option Half) (s : State) : Quiet s (loseRecord ans s) :=
  ((quiet_jwr s _).trans (quiet_noticeIf _ _ _ (by decide))).trans (quiet_answerOwed _ _ _ _)

theorem quiet_placeRecord (r : Record) (ans : Option Half) (s : State) : Quiet s (placeRecord r ans s) := by
  unfold placeRecord
  split
  · exact quiet_jwr s _
  · exact quiet_loseRecord ans s

theorem quiet_takeRecord (r : Record) (ans : Option Half) (s : State) : Quiet s (takeRecord r ans s) := by
  unfold takeRecord
  split
  · exact quiet_placeRecord r ans s
  · split
    · exact quiet_jwr s _
    · exact quiet_loseRecord ans s

theorem quiet_takeItem (i : JournalItem) (s : State) : Quiet s (takeItem i s) := by
  cases i with
  | record r ans => exact quiet_takeRecord r ans s
  | readMark v =>
    show Quiet s (takeReadMark v s)
    unfold takeReadMark
    split
    · exact (quiet_jwr s _).trans (quiet_evaluateLevel _)
    · exact quiet_jwr s _
  | restart seq => exact (quiet_jwr s _).trans (quiet_evaluateLevel _)

theorem quiet_takeItems : ∀ (l : List JournalItem) (s : State), Quiet s (takeItems l s)
  | [], s => quiet_jwr s _
  | i :: is, s => by
    unfold takeItems
    split
    · exact (quiet_takeItem i s).trans (quiet_takeItems is _)
    · exact quiet_jwr s _

theorem quiet_serveHand (s : State) : Quiet s (serveHand s) := quiet_takeItems _ s

/-! ## The status copy -/

theorem length_statusBody (s : State) : (statusBody s).length = 504 := by
  have h : ∀ l : List TrackMode, (l.map fun _ => 1).sum = l.length := fun l => by
    induction l <;> simp_all [Nat.add_comm]
  simp [statusBody, statusHead, statusRail, statusPlay, statusCapture, statusTail, pageStatusBytes, flagByte,
    length_toBytes, h]

theorem sound_fieldWrites (s : State) : ∀ a ∈ fieldWrites s, a.sound := by
  intro a ha
  simp only [fieldWrites, List.mem_map, List.mem_range] at ha
  obtain ⟨i, hi, rfl⟩ := ha
  intro sum off bytes hw
  simp only [OrdAccess.write, Option.some.injEq, Prod.mk.injEq] at hw
  obtain ⟨rfl, rfl⟩ := hw
  simp only [List.length_take, offStatus]
  omega

theorem sound_statusWrites (n : Word) (s : State) : ∀ a ∈ statusWrites n s, a.sound := by
  intro a ha
  simp only [statusWrites, List.mem_cons, List.mem_append, List.not_mem_nil, or_false] at ha
  rcases ha with rfl | ha | rfl
  · intro sum off bytes hw
    simp only [OrdAccess.write, Option.some.injEq, Prod.mk.injEq] at hw
    obtain ⟨rfl, rfl⟩ := hw
    simp [length_toBytes, offStatus]
  · exact sound_fieldWrites s a ha
  · intro sum off bytes hw
    simp only [OrdAccess.write, Option.some.injEq, Prod.mk.injEq] at hw
    obtain ⟨rfl, rfl⟩ := hw
    simp [length_toBytes, offStatus]

theorem quiet_copyStatus (n : Word) (s : State) : Quiet s (copyStatus n s) := by
  have h : Quiet s { s with ord.statusWriting := true, ord.statusDue := none,
                            ord.statusTick := s.ord.statusTick.filter (· == n) } :=
    { Quiet.refl s with calm := rfl, triggers := rfl, kept := fun _ _ h => h, grows := by simp }
  exact h.trans (quiet_pushOrds _ (sound_statusWrites n s))

theorem quiet_refreshStatus (n : Word) (s : State) : Quiet s (refreshStatus n s) := by
  unfold refreshStatus
  split
  · exact { Quiet.refl s with calm := rfl, triggers := rfl, kept := fun _ _ h => h, grows := by simp }
  · exact quiet_copyStatus n s

theorem refreshStatus_waits {n : Word} {s : State} (h : copiesStatus s = false) :
    refreshStatus n s = { s with ord.statusDue := some n, ord.statusTick := none } := by
  simp [refreshStatus, h]

theorem refreshStatus_copies {n : Word} {s : State} (h : copiesStatus s = true) :
    refreshStatus n s = copyStatus n s := by
  simp [refreshStatus, h]

theorem refreshView_waits {n : Word} {s : State} (h : s.ord.viewWriting = true) :
    refreshView n s = { s with ord.viewDue := some n } := by
  simp [refreshView, h]

theorem refreshView_copies {n : Word} {s : State} (h : s.ord.viewWriting = false) :
    refreshView n s = copyView n s := by
  simp [refreshView, h]

theorem quiet_callStatus (s : State) : Quiet s (callStatus s) := by
  unfold callStatus
  split
  · have h : Quiet s { s with ord.statusCall := false } :=
      { Quiet.refl s with calm := rfl, triggers := rfl, kept := fun _ _ h => h, grows := by simp }
    exact h.trans (quiet_refreshStatus _ _)
  · exact Quiet.refl s

theorem quiet_beginStart (s : State) : Quiet s (beginStart s) := by
  unfold beginStart
  split
  · have h : Quiet s { s with start := .header } :=
      { Quiet.refl s with calm := rfl, triggers := rfl, kept := fun _ _ h => h, grows := by simp }
    exact h.trans (quiet_pushOrd _ (sound_of_none fun _ => rfl))
  · exact Quiet.refl s

theorem quiet_regionFaultAt (r : FaultRegion) (off : Nat) (s : State) : Quiet s (regionFaultAt r off s) := by
  have h : Quiet s { s with ord.regionFault := ⟨r, off, bump16 s.ord.regionFault.count⟩ } :=
    { Quiet.refl s with calm := rfl, triggers := rfl, kept := fun _ _ h => h, grows := by simp }
  exact h.trans (quiet_notice _ _ (by decide))

end Sys2Proof.Machine
end

