-- ==== Sys2Proof/Laws/Finish.lean ====
section
/-!
SUPPORT. The arbiter's grants and `finish`, the common end of every command: all they can do is in `quiet_finish`.
-/

namespace Sys2Proof.Machine

open Sys2Proof.Config

/-- The work area lies below the last 16 KiB boundary of the store (R190). -/
theorem area_le {s : State} (h : areaSound s) : s.area.toNat + 0x4000 ≤ storeSize := by
  unfold areaSound at h
  have h2 : (s.area &&& 0x03FF_C000).toNat ≤ 0x03FF_C000 := by
    rw [BitVec.toNat_and]
    exact Nat.and_le_right
  rw [h] at h2
  simp only [storeSize]
  omega

/-- A write inside the work area leaves every byte outside it alone. -/
theorem readByte_writeArea {s : State} (ha : areaSound s) {off : Nat} {bytes : List Byte}
    (hl : off + bytes.length ≤ 0x4000) {a : Nat} (ho : outsideArea s a) :
    readByte (writeArea off bytes s).store a = readByte s.store a := by
  have hle := area_le ha
  simp only [storeSize] at hle
  rw [writeArea_store]
  apply readByte_writeBytes_outside
  intro i hi
  obtain ⟨h1, h2⟩ := ho
  simp only [storeSize] at h1
  simp only [storeAddr, storeSize, areaAddr]
  rw [Nat.mod_eq_of_lt h1, Nat.mod_eq_of_lt (by omega)]
  omega

/-- A write of the work area is quiet when it stays inside. -/
theorem quiet_writeArea (s : State) {off : Nat} {bytes : List Byte} (hl : listSound s → off + bytes.length ≤ 0x4000) :
    Quiet s (writeArea off bytes s) where
  calm := rfl
  triggers := rfl
  kept := fun _ _ h => h
  grows := by simp
  others := rfl
  busy := fun _ => rfl
  wf := fun h => writeBytes_wf _ h _
  list := id
  outside := fun hs ha _ ho => readByte_writeArea ha (hl hs) ho
  voices := rfl
  fetching := ⟨rfl, rfl⟩

/-- A change of ORD's record that leaves its list, summary and triggers alone is quiet. -/
theorem quiet_ord (s : State) (o : OrderUnit) (hl : o.list = s.ord.list) (hs : o.summary = s.ord.summary)
    (ht : o.triggers = s.ord.triggers) : Quiet s { s with ord := o } where
  calm := rfl
  triggers := ht
  kept := fun _ _ h => hl ▸ h
  grows := by simp [hs]
  others := by simp [hs]
  busy := fun _ => rfl
  wf := id
  list := fun h a ha => h a (by simpa [hl] using ha)
  outside := fun _ _ _ _ => rfl
  voices := rfl
  fetching := ⟨rfl, rfl⟩

/-- A change of the start sequence's place is quiet. -/
theorem quiet_start (s : State) (p : StartPhase) : Quiet s { s with start := p } :=
  { Quiet.refl s with calm := rfl, triggers := rfl, kept := fun _ _ h => h, grows := by simp }

theorem quiet_startFails (e : AreaError) (s : State) : Quiet s (startFails e s) :=
  { Quiet.refl s with calm := rfl, triggers := rfl, kept := fun _ _ h => h, grows := (Quiet.refl s).grows }

theorem sound_pageReads : ∀ a ∈ pageReads, a.sound := by
  intro a ha
  simp only [pageReads, List.mem_append, List.mem_map, List.mem_singleton] at ha
  rcases ha with ⟨i, _, rfl⟩ | rfl <;> exact sound_of_none fun _ => rfl

theorem quiet_startAdoption (page : Bool) (stamp : Half) (s : State) : Quiet s (startAdoption page stamp s) := by
  unfold startAdoption
  refine Quiet.trans (quiet_ord s _ ?_ ?_ ?_) (quiet_pushOrds _ ?_)
  · rfl
  · rfl
  · rfl
  · intro a ha
    simp only [List.mem_cons] at ha
    rcases ha with rfl | ha
    · exact sound_pageStatus _
    · exact sound_pageReads a ha

theorem quiet_takeSelector (w : Word) (s : State) : Quiet s (takeSelector w s) := by
  unfold takeSelector
  split
  · split
    · exact quiet_startAdoption _ _ _
    · exact quiet_ord s _ rfl rfl rfl
  · exact Quiet.refl s

theorem quiet_takeNextSelector (s : State) : Quiet s (takeNextSelector s) := by
  unfold takeNextSelector
  split
  · exact quiet_takeSelector _ s
  · exact Quiet.refl s

theorem quiet_takeHeaderWords (s : State) : Quiet s (takeHeaderWords s) := by
  unfold takeHeaderWords
  split
  · exact (quiet_start s _).trans (quiet_pushOrd _ (sound_of_none fun _ => rfl))
  · exact quiet_startFails _ _

theorem quiet_takeRegions (s : State) : Quiet s (takeRegions s) := by
  unfold takeRegions
  dsimp only
  split
  · have h : Quiet s { s with ord.regions := regionsAt s.store (areaAddr s offRegions) } :=
      quiet_ord s _ rfl rfl rfl
    exact (h.trans (quiet_start _ _)).trans (quiet_pushOrd _ (sound_of_none fun _ => rfl))
  · exact quiet_startFails _ _

theorem quiet_takeStartMask (s : State) : Quiet s (takeStartMask s) := by
  unfold takeStartMask
  have h : Quiet s (queueSummary { s with ord.mask := (areaWord s offMask).setWidth 16 }) :=
    (quiet_ord s { s.ord with mask := (areaWord s offMask).setWidth 16 } rfl rfl rfl).trans (quiet_queueSummary _)
  dsimp only
  split
  · exact (h.trans (quiet_start _ _)).trans (quiet_pushOrd _ (sound_of_none fun _ => rfl))
  · exact h.trans (quiet_start _ _)

theorem quiet_takeStartSelector (s : State) : Quiet s (takeStartSelector s) :=
  (quiet_start s _).trans (quiet_startAdoption _ _ _)

/-- What follows an access is quiet, but for the read of the score descriptor, which starts the reader. -/
theorem quiet_afterAccess {a : OrdAccess} (h : ∀ n, a ≠ .firstBlock n) (s : State) : Quiet s (afterAccess a s) := by
  cases a with
  | keyView _ _ last => cases last <;> exact quiet_ord s _ rfl rfl rfl
  | status _ _ last => cases last <;> exact quiet_ord s _ rfl rfl rfl
  | pageWord i => exact quiet_ord s _ rfl rfl rfl
  | tableEntry i => exact quiet_ord s _ rfl rfl rfl
  | mapWord i => exact quiet_ord s _ rfl rfl rfl
  | startHeader => exact quiet_takeHeaderWords s
  | startRegions => exact quiet_takeRegions s
  | startMask => exact quiet_takeStartMask s
  | startSelector => exact quiet_takeStartSelector s
  | nextSelector => exact quiet_takeNextSelector s
  | firstBlock n => exact absurd rfl (h n)
  | _ => exact Quiet.refl s

theorem quiet_performWrite (a : OrdAccess) (s : State) (h : listSound s → a.sound) : Quiet s (performWrite a s) := by
  unfold performWrite
  split
  · rename_i off bytes hw
    exact quiet_writeArea s fun hs => h hs _ _ _ hw
  · exact Quiet.refl s

theorem kept_hasRow {a : OrdAccess} {m p : Bool} (h : a.kept = true) : a.hasRow m p = true := by
  cases a <;> simp_all [OrdAccess.kept, OrdAccess.hasRow]

/-- A grant changes which access is in progress, and nothing else. -/
theorem quiet_grant (s : State) : Quiet s (grant s) := by
  unfold grant
  split
  · rename_i hb _
    exact { Quiet.refl s with
      calm := rfl
      triggers := rfl
      kept := fun _ _ h => h
      grows := by simp
      busy := fun h => absurd hb h }
  · exact Quiet.refl s

/-- All that the common end of a command can do. -/
theorem quiet_finish (s : State) : Quiet s (finish s) :=
  (((quiet_serveHand s).trans (quiet_beginStart _)).trans (quiet_callStatus _)).trans (quiet_grant _)

/-- R56: JWR does not rest with items in its hand. -/
theorem takeItems_idle : ∀ (l : List JournalItem) (s : State),
    (takeItems l s).jwr.op = .idle → (takeItems l s).jwr.hand = []
  | [], _, _ => rfl
  | i :: is, s, h => by
    by_cases hi : s.jwr.op = .idle
    · rw [takeItems, if_pos hi] at *
      exact takeItems_idle is _ h
    · rw [takeItems, if_neg hi] at h
      exact absurd h hi

/-- JWR takes items from the front only. -/
theorem takeItems_suffix : ∀ (l : List JournalItem) (s : State), (takeItems l s).jwr.hand <:+ l
  | [], _ => List.suffix_refl _
  | i :: is, s => by
    unfold takeItems
    split
    · exact (takeItems_suffix is _).trans (List.suffix_cons _ _)
    · exact List.suffix_refl _

/-- Of what every command ends with, only the work on the hand touches JWR's record. -/
theorem finish_jwr (s : State) : (finish s).jwr = (serveHand s).jwr := by
  have hb : ∀ u : State, (beginStart u).jwr = u.jwr := fun u => by unfold beginStart; split <;> rfl
  have hc : ∀ u : State, (callStatus u).jwr = u.jwr := fun u => by
    unfold callStatus refreshStatus copyStatus pushOrds
    split
    · split <;> rfl
    · rfl
  have hg : ∀ u : State, (grant u).jwr = u.jwr := fun u => by unfold grant; split <;> rfl
  rw [finish, hg, hc, hb]

/-- An answer told to ORD is still in its list, or being written, at the end of the command (R175). -/
theorem answered_finish {slot : Slot} {seq : Half} {r : Result} {s : State} (h : answered slot seq r s) :
    answered slot seq r (finish s) := (quiet_finish s).kept _ rfl h

theorem answered_answer (slot : Slot) (seq : Half) (r : Result) (s : State) : answered slot seq r (answer slot seq r s) := by
  simp [answered, answer]

/-! ## `finish`, field by field -/

@[simp] theorem finish_calm (s : State) : calm (finish s) = calm s := (quiet_finish s).calm
@[simp] theorem finish_pending (s : State) : (finish s).pending = s.pending := congrArg Calm.pending (quiet_finish s).calm
@[simp] theorem finish_inReset (s : State) : (finish s).inReset = s.inReset := congrArg Calm.inReset (quiet_finish s).calm
@[simp] theorem finish_area (s : State) : (finish s).area = s.area := congrArg Calm.area (quiet_finish s).calm
@[simp] theorem finish_running (s : State) : (finish s).running = s.running := congrArg Calm.running (quiet_finish s).calm
@[simp] theorem finish_lines (s : State) : (finish s).lines = s.lines := congrArg Calm.lines (quiet_finish s).calm
@[simp] theorem finish_muxAddress (s : State) : (finish s).muxAddress = s.muxAddress := congrArg Calm.muxAddress (quiet_finish s).calm
@[simp] theorem finish_raw (s : State) : (finish s).raw = s.raw := congrArg Calm.raw (quiet_finish s).calm
@[simp] theorem finish_scanCount (s : State) : (finish s).scanCount = s.scanCount := congrArg Calm.scanCount (quiet_finish s).calm
@[simp] theorem finish_keys (s : State) : (finish s).keys = s.keys := congrArg Calm.keys (quiet_finish s).calm
@[simp] theorem finish_pedals (s : State) : (finish s).pedals = s.pedals := congrArg Calm.pedals (quiet_finish s).calm
@[simp] theorem finish_lastZone (s : State) : (finish s).lastZone = s.lastZone := congrArg Calm.lastZone (quiet_finish s).calm
@[simp] theorem finish_live (s : State) : (finish s).live = s.live := congrArg Calm.live (quiet_finish s).calm
@[simp] theorem finish_playback (s : State) : (finish s).playback = s.playback := congrArg Calm.playback (quiet_finish s).calm
@[simp] theorem finish_cal (s : State) : (finish s).cal = s.cal := congrArg Calm.cal (quiet_finish s).calm
@[simp] theorem finish_cap (s : State) : (finish s).cap = s.cap := congrArg Calm.cap (quiet_finish s).calm
@[simp] theorem finish_rail (s : State) : (finish s).rail = s.rail := congrArg Calm.rail (quiet_finish s).calm
@[simp] theorem finish_mapCopy (s : State) : (finish s).mapCopy = s.mapCopy := congrArg Calm.mapCopy (quiet_finish s).calm
@[simp] theorem finish_startCounter (s : State) : (finish s).startCounter = s.startCounter := congrArg Calm.startCounter (quiet_finish s).calm
@[simp] theorem finish_stats (s : State) : (finish s).stats = s.stats := congrArg Calm.stats (quiet_finish s).calm
@[simp] theorem finish_streams (s : State) : (finish s).streams = s.streams := congrArg Calm.streams (quiet_finish s).calm
@[simp] theorem finish_mixer (s : State) : (finish s).mixer = s.mixer := congrArg Calm.mixer (quiet_finish s).calm
@[simp] theorem finish_phones (s : State) : (finish s).phones = s.phones := congrArg Calm.phones (quiet_finish s).calm
@[simp] theorem finish_scr (s : State) : (finish s).scr = s.scr := congrArg Calm.scr (quiet_finish s).calm
@[simp] theorem finish_play (s : State) : (finish s).play = s.play := congrArg Calm.play (quiet_finish s).calm
@[simp] theorem finish_settings (s : State) : (finish s).settings = s.settings := congrArg Calm.settings (quiet_finish s).calm
@[simp] theorem finish_link (s : State) : (finish s).link = s.link := congrArg Calm.link (quiet_finish s).calm
@[simp] theorem finish_triggers (s : State) : (finish s).ord.triggers = s.ord.triggers := (quiet_finish s).triggers
@[simp] theorem finish_voices (s : State) : (finish s).voices = s.voices := (quiet_finish s).voices
@[simp] theorem finish_fetchOrder (s : State) : (finish s).fetchOrder = s.fetchOrder := (quiet_finish s).fetching.1
@[simp] theorem finish_burst (s : State) : (finish s).burst = s.burst := (quiet_finish s).fetching.2

/-! ## The end of an access that is no row -/

/-- The access in progress, if its end is no row. -/
theorem rowlessHead_eq {s : State} {a : OrdAccess} (h : rowlessHead s = some a) :
    s.busy = some .ord ∧ (∃ rest, s.ord.list = a :: rest) ∧ rowEnds s a = false := by
  unfold rowlessHead ordHead at h
  split at h
  · rename_i b rest hb hl
    simp only [Option.filter_some, Bool.not_eq_true'] at h
    split at h
    · rename_i hr
      cases h
      exact ⟨hb, ⟨rest, hl⟩, hr⟩
    · cases h
  · cases h

theorem passAccess_none {s : State} (h : rowlessHead s = none) : passAccess s = s := by
  unfold passAccess
  rw [h]

theorem passAccess_some {s : State} {a : OrdAccess} (h : rowlessHead s = some a) :
    passAccess s = finish (performAccess a (endOrd s)) := by
  unfold passAccess
  rw [h]

theorem settle_none {s : State} (h : rowlessHead s = none) : settle s = s := by
  unfold settle passMany
  rw [h]
  rfl

/-- The end of an access without a row is quiet once the store is free, but for the read of the score descriptor. -/
theorem quiet_passAccess {s : State} {a : OrdAccess} (h : rowlessHead s = some a) (hf : ∀ n, a ≠ .firstBlock n) :
    Quiet { s with busy := none } (passAccess s) := by
  rw [passAccess_some h]
  obtain ⟨_, ⟨rest, hl⟩, hr⟩ := rowlessHead_eq h
  have hk : ¬ a.kept = true := fun hk => by
    unfold rowEnds at hr
    rw [kept_hasRow hk] at hr
    cases hr
  have hsnd : listSound s → a.sound := fun h => h a (by rw [hl]; exact List.mem_cons_self)
  have h1 : Quiet { s with busy := none } (endOrd s) :=
    { Quiet.refl { s with busy := none } with
      calm := rfl
      triggers := rfl
      kept := fun b hb hm => by
        show b ∈ s.ord.list.tail
        change b ∈ s.ord.list at hm
        rw [hl] at hm ⊢
        rcases List.mem_cons.mp hm with rfl | hm
        · exact absurd hb hk
        · exact hm
      grows := by simp [endOrd]
      list := fun h b hb => h b (List.mem_of_mem_tail hb) }
  have h2 : Quiet { s with busy := none } (performWrite a (endOrd s)) := by
    unfold performWrite
    split
    · rename_i off bytes hw
      exact {
        calm := rfl
        triggers := rfl
        kept := h1.kept
        grows := by simp [endOrd]
        others := rfl
        busy := fun _ => rfl
        wf := fun h => writeBytes_wf _ h _
        list := h1.list
        outside := fun hs ha c ho => readByte_writeArea (s := endOrd s) ha (hsnd hs _ _ _ hw) ho
        voices := rfl
        fetching := ⟨rfl, rfl⟩ }
    · exact h1
  exact (h2.trans (quiet_afterAccess hf _)).trans (quiet_finish _)

end Sys2Proof.Machine
end

