-- ==== Sys2Proof/Laws/Blocks.lean ====
section
/-!
SUPPORT. What the shared operations of the blocks change of the calm part of the state, one lemma for each.
-/

namespace Sys2Proof.Machine

/-! ## Journal records, answers, notices -/

theorem quiet_handItem (i : JournalItem) (s : State) : Quiet s (handItem i s) := quiet_jwr s _

theorem quiet_handRecord (r : Record) (s : State) : Quiet s (handRecord r s) := by
  unfold handRecord
  split
  · exact quiet_handItem _ s
  · exact Quiet.refl s

theorem quiet_handRecords : ∀ (l : List Record) (s : State), Quiet s (handRecords l s)
  | [], s => Quiet.refl s
  | r :: rs, s => (quiet_handRecord r s).trans (quiet_handRecords rs _)

theorem quiet_reorderHand (n : Nat) (l : List Nat) (s : State) : Quiet s (reorderHand n l s) := quiet_jwr s _

@[simp] theorem handRecord_calm (r : Record) (s : State) : calm (handRecord r s) = calm s := (quiet_handRecord r s).calm
@[simp] theorem handRecords_calm (l : List Record) (s : State) : calm (handRecords l s) = calm s :=
  (quiet_handRecords l s).calm
@[simp] theorem reorderHand_calm (n : Nat) (l : List Nat) (s : State) : calm (reorderHand n l s) = calm s := rfl
@[simp] theorem handItem_calm (i : JournalItem) (s : State) : calm (handItem i s) = calm s := rfl
@[simp] theorem answer_calm (slot : Slot) (seq : Half) (r : Result) (s : State) : calm (answer slot seq r s) = calm s := rfl
@[simp] theorem answerOwed_calm (slot : Slot) (seq : Option Half) (r : Result) (s : State) :
    calm (answerOwed slot seq r s) = calm s := (quiet_answerOwed slot seq r s).calm
@[simp] theorem noticeIf_calm (c : Bool) (n : Notice) (s : State) : calm (noticeIf c n s) = calm s := by
  unfold noticeIf
  split
  · exact notice_calm n s
  · rfl
@[simp] theorem pushOrd_calm (a : OrdAccess) (s : State) : calm (pushOrd a s) = calm s := rfl
@[simp] theorem pushOrds_calm (l : List OrdAccess) (s : State) : calm (pushOrds l s) = calm s := rfl
@[simp] theorem regionFaultAt_calm (r : FaultRegion) (off : Nat) (s : State) : calm (regionFaultAt r off s) = calm s :=
  (quiet_regionFaultAt r off s).calm

/-! ## Voices -/

@[simp] theorem setVoice_calm (i : Fin 80) (v : Voice) (s : State) : calm (setVoice i v s) = calm s := rfl
@[simp] theorem pruneOrder_calm (s : State) : calm (pruneOrder s) = calm s := rfl
/-- The voice table, the fetch order and the burst are no part of the calm part. -/
theorem calm_voices (s : State) (v : Vector Voice 80) (f : List (Fin 80)) (b : Option Burst) :
    calm { s with voices := v, fetchOrder := f, burst := b } = calm s := rfl

@[simp] theorem mapVoices_calm (f : Voice → Voice) (s : State) : calm (mapVoices f s) = calm s := by
  unfold mapVoices
  rw [pruneOrder_calm]
  exact calm_voices s _ s.fetchOrder s.burst

@[simp] theorem fadePlayback_calm (s : State) : calm (fadePlayback s) = calm s := by
  unfold fadePlayback fadeVoices
  exact mapVoices_calm _ s

@[simp] theorem fadeAll_calm (s : State) : calm (fadeAll s) = calm s := by
  unfold fadeAll fadeVoices
  exact mapVoices_calm _ s

@[simp] theorem dropPlayback_calm (s : State) : calm (dropPlayback s) = calm s := mapVoices_calm _ s
@[simp] theorem sostenutoFall_calm (src : VoiceSource) (k : KeySet) (s : State) :
    calm (sostenutoFall src k s) = calm s := mapVoices_calm _ s

@[simp] theorem releaseVoice_calm (src : VoiceSource) (k : Fin 88) (s : State) : calm (releaseVoice src k s) = calm s := by
  unfold releaseVoice
  split <;> rfl

@[simp] theorem trimReserve_calm : ∀ (n : Nat) (s : State), calm (trimReserve n s) = calm s
  | 0, _ => rfl
  | n + 1, s => by
    unfold trimReserve
    split
    · split
      · rw [trimReserve_calm n]
        rfl
      · rfl
    · rfl

/-- A state without what VCE and SFU may change: the voice table, its fetching, the start counter, the statistics and ORD's record (a region fault, R111). -/
def withoutVoices (s : State) : State :=
  { s with voices := Vector.replicate 80 Voice.reset, fetchOrder := [], burst := none, startCounter := 0,
           stats := ⟨0, 0, 0, 0, 0⟩, ord := OrderUnit.reset }

/-- VCE's and SFU's work leaves everything else alone. -/
def voicesOnly (s t : State) : Prop := withoutVoices t = withoutVoices s

theorem voicesOnly.refl (s : State) : voicesOnly s s := rfl

theorem voicesOnly.trans {s t u : State} (h : voicesOnly s t) (k : voicesOnly t u) : voicesOnly s u := Eq.trans k h

theorem voicesOnly_notice (n : Notice) (s : State) : voicesOnly s (notice n s) := by
  obtain ⟨l, _, h⟩ := notice_eq n s
  rw [h]
  rfl

theorem voicesOnly_regionFaultAt (r : FaultRegion) (off : Nat) (s : State) : voicesOnly s (regionFaultAt r off s) :=
  voicesOnly.trans (t := { s with ord.regionFault := ⟨r, off, bump16 s.ord.regionFault.count⟩ }) rfl
    (voicesOnly_notice _ _)

/-- R110, R111: SFU's choice. -/
theorem voicesOnly_chooseBurst : ∀ (n : Nat) (s : State), voicesOnly s (chooseBurst n s)
  | 0, s => voicesOnly.refl s
  | n + 1, s => by
    unfold chooseBurst
    split
    · dsimp only
      split
      · rfl
      · exact (voicesOnly.trans (t := freeVoice _ s) rfl (voicesOnly_regionFaultAt _ _ _)).trans
          (voicesOnly_chooseBurst n _)
    · rfl

theorem voicesOnly_table (s : State) (v : Vector Voice 80) (f : List (Fin 80)) (b : Option Burst) :
    voicesOnly s { s with voices := v, fetchOrder := f, burst := b } := rfl

theorem voicesOnly_joinOrder (s : State) : voicesOnly s (joinOrder s) := voicesOnly_table s _ _ s.burst

theorem voicesOnly_fetchNext (s : State) : voicesOnly s (fetchNext s) := by
  unfold fetchNext
  exact (voicesOnly_joinOrder s).trans (voicesOnly_chooseBurst _ _)

/-- R112: the arrival of a burst. -/
theorem voicesOnly_burstDone (b : Burst) (s : State) : voicesOnly s (burstDone b s) := by
  have h : voicesOnly s (arrive b s) := by
    unfold arrive
    dsimp only
    split <;> rfl
  exact h.trans (voicesOnly_fetchNext _)

theorem voicesOnly_restrike (src : VoiceSource) (k : Fin 88) (s : State) : voicesOnly s (restrike src k s) := by
  unfold restrike
  split <;> rfl

theorem voicesOnly_makeVoice (src : VoiceSource) (k : Fin 88) (v : Nat) (l : Layer) (i : Fin 80) (s : State) :
    voicesOnly s (makeVoice src k v l i s) := by
  unfold makeVoice
  dsimp only
  refine voicesOnly.trans ?_ (voicesOnly_fetchNext _)
  rfl

/-- R99 to R104: a start request. -/
theorem voicesOnly_startRequest (src : VoiceSource) (k : Fin 88) (v : Nat) (s : State) :
    voicesOnly s (startRequest src k v s) := by
  unfold startRequest
  split
  · split
    · rfl
    · have h := voicesOnly_restrike src k s
      dsimp only
      split
      · exact h.trans (voicesOnly_makeVoice _ _ _ _ _ _)
      · exact (h.trans (u := { restrike src k s with stats.steals := bump16 (restrike src k s).stats.steals }) rfl).trans
          (voicesOnly_makeVoice _ _ _ _ _ _)
      · exact h.trans rfl
  · rfl

/-- What VCE's and SFU's work leaves of the calm part. -/
theorem voicesOnly.calm {s t : State} (h : voicesOnly s t) :
    calm t = { calm s with startCounter := t.startCounter, stats := t.stats } := by
  have e := congrArg Machine.calm h
  have f : ∀ u : State, Machine.calm u =
      { Machine.calm (withoutVoices u) with startCounter := u.startCounter, stats := u.stats } := fun _ => rfl
  rw [f t, e, f s]

/-! ## Rail -/

@[simp] theorem railTo_calm (r : Rail) (s : State) : calm (railTo r s) = { calm s with rail := r } := by
  unfold railTo
  split
  · rfl
  · rw [handRecord_calm]
    rfl

@[simp] theorem railTo_rail (r : Rail) (s : State) : (railTo r s).rail = r := congrArg Calm.rail (railTo_calm r s)

/-- A change of the rail record alone. -/
def railOnly (s t : State) : Prop := ∃ r, calm t = { calm s with rail := r }

theorem railOnly.refl (s : State) : railOnly s s := ⟨s.rail, rfl⟩

theorem railOnly.trans {s t u : State} (h : railOnly s t) (k : railOnly t u) : railOnly s u := by
  obtain ⟨r, h⟩ := h
  obtain ⟨q, k⟩ := k
  exact ⟨q, by rw [k, h]⟩

theorem railOnly_railTo (r : Rail) (s : State) : railOnly s (railTo r s) := ⟨r, railTo_calm r s⟩

theorem railOnly_with (r : Rail) (s : State) : railOnly s { s with rail := r } := ⟨r, rfl⟩

theorem railOnly_stall (f : FaultCause) (c : StopCause) (s : State) : railOnly s (stall f c s) :=
  ⟨_, (notice_calm _ _).trans (railTo_calm _ _)⟩

theorem railOnly_endShort (c : StopCause) (s : State) : railOnly s (endShort c s) := by
  unfold endShort
  dsimp only
  split
  · exact railOnly_stall _ _ _
  · exact ⟨_, (noticeIf_calm _ _ _).trans (railTo_calm _ _)⟩

theorem railOnly_request (target : Target) (src : Source) (s : State) : railOnly s (request target src s).1 := by
  unfold request
  split
  · exact railOnly.refl s
  all_goals
    repeat' split
    all_goals
      first
      | exact railOnly.refl s
      | exact railOnly_with _ s
      | exact railOnly_railTo _ s

theorem railOnly_setQuiet (q : Bool) (s : State) : railOnly s (setQuiet q s) := by
  unfold setQuiet
  dsimp only
  repeat' split
  all_goals
    first
    | exact railOnly_with _ s
    | exact railOnly_railTo _ s

theorem railOnly_quietStep (keys : Vector KeyRec 88) (struck : Bool) (s : State) :
    railOnly s (quietStep keys struck s) :=
  (railOnly_with _ s).trans (railOnly_setQuiet _ _)

theorem railOnly_sampleStep (l : Lines) (s : State) : railOnly s (sampleStep l s) := by
  unfold sampleStep
  dsimp only
  split
  · exact (railOnly_with _ s).trans (railOnly_request _ _ _)
  · exact railOnly_with _ s

theorem railOnly_switchStep (s : State) : railOnly s (switchStep s) := by
  unfold switchStep
  split
  · exact railOnly_stall _ _ _
  · exact railOnly.refl s

theorem railOnly_arrivalStep (s : State) : railOnly s (arrivalStep s) := by
  unfold arrivalStep
  split
  · exact ⟨_, (notice_calm _ _).trans (railTo_calm _ _)⟩
  · exact railOnly.refl s

theorem railOnly_driftStep (s : State) : railOnly s (driftStep s) := by
  unfold driftStep
  split
  · exact ⟨_, (noticeIf_calm _ _ _).trans (railTo_calm _ _)⟩
  · exact railOnly.refl s

theorem railOnly_countStep (s : State) : railOnly s (countStep s) := by
  unfold countStep
  split
  all_goals
    first
    | exact railOnly.refl s
    | (unfold countTravel; dsimp only; split
       · exact (railOnly_with _ s).trans (railOnly_stall _ _ _)
       · exact railOnly_with _ s)
    | (unfold countPause; split
       · exact railOnly_endShort _ s
       · exact railOnly_with _ s)
    | (unfold countDwell; split
       · exact railOnly_railTo _ s
       · exact railOnly_with _ s)

theorem railOnly_tickSteps (l : Lines) (s : State) : railOnly s (tickSteps l s) :=
  ((((railOnly_sampleStep l s).trans (railOnly_switchStep _)).trans (railOnly_arrivalStep _)).trans
    (railOnly_driftStep _)).trans (railOnly_countStep _)

/-- RLC's work at a scan completion changes nothing of the other blocks' records. -/
theorem railOnly_railScan (l : Lines) (keys : Vector KeyRec 88) (struck : Bool) (s : State) :
    railOnly s (railScan l keys struck s) := by
  unfold railScan
  dsimp only
  split
  · exact (railOnly_quietStep _ _ _).trans (railOnly_tickSteps _ _)
  · exact railOnly_quietStep _ _ _

/-! ## Contexts and playback -/

@[simp] theorem setPlay_calm (st : PlayState) (s : State) :
    calm (setPlay st s) = { calm s with play := { s.play with state := st } } := by
  unfold setPlay
  split
  · rename_i h
    rw [← h]
    rfl
  · rw [notice_calm]
    rfl

@[simp] theorem setPlay_play (st : PlayState) (s : State) : (setPlay st s).play = { s.play with state := st } :=
  congrArg Calm.play (setPlay_calm st s)

@[simp] theorem flush_calm (s : State) :
    calm (flush s) = { calm s with scr := { s.scr with queue := [], serial := s.scr.serial + 1, state := .idle,
                                                       block := none, header := none } } := rfl

@[simp] theorem resetPlayback_calm (s : State) : calm (resetPlayback s) = { calm s with playback := Context.reset } := by
  unfold resetPlayback
  dsimp only
  split
  · rw [sostenutoFall_calm]
    rfl
  · rfl

/-- The evaluation of the LIVE context changes that context alone. -/
@[simp] theorem evaluateContext_live (rise fall : KeySet) (s : State) :
    calm (evaluateContext .live rise fall s) = { calm s with live := evaluated s.settings rise s.live } := by
  unfold evaluateContext
  dsimp only
  split
  · rw [sostenutoFall_calm]
    rfl
  · rfl

/-- The evaluation of the PLAYBACK context changes that context alone. -/
@[simp] theorem evaluateContext_playback (rise fall : KeySet) (s : State) :
    calm (evaluateContext .playback rise fall s) = { calm s with playback := evaluated s.settings rise s.playback } := by
  unfold evaluateContext
  dsimp only
  split
  · rw [sostenutoFall_calm]
    rfl
  · rfl

/-- R151, R152: what START and STOP leave of the calm part. -/
@[simp] theorem clearPlayback_calm (s : State) :
    calm (clearPlayback s) =
      { calm s with
        playback := Context.reset
        scr := { s.scr with queue := [], serial := s.scr.serial + 1, state := .idle, block := none, header := none }
        play := { s.play with seek := none, prompts := [], held := KeySet.none, anchor := none } } := by
  unfold clearPlayback
  have h := resetPlayback_calm (fadePlayback (flush { s with play.seek := none }))
  rw [fadePlayback_calm, flush_calm] at h
  dsimp only
  generalize resetPlayback (fadePlayback (flush { s with play.seek := none })) = t at h ⊢
  have hp : t.play = { s.play with seek := none } := congrArg Calm.play h
  have e : calm { t with play := { t.play with prompts := [], held := KeySet.none, anchor := none } } =
      { calm t with play := { t.play with prompts := [], held := KeySet.none, anchor := none } } := rfl
  rw [e, h, hp]
  rfl

/-- R152: what STOP and RUN clear leave of the calm part. -/
@[simp] theorem stopPlayback_calm (s : State) :
    calm (stopPlayback s) =
      { calm s with
        playback := Context.reset
        scr := { s.scr with queue := [], serial := s.scr.serial + 1, state := .idle, block := none, header := none }
        play := { s.play with seek := none, prompts := [], held := KeySet.none, anchor := none, state := .stopped,
                              loop := { s.play.loop with armed := false, count := 0 } } } := by
  unfold stopPlayback
  have h := clearPlayback_calm s
  dsimp only
  generalize clearPlayback s = t at h ⊢
  have hp : t.play = { s.play with seek := none, prompts := [], held := KeySet.none, anchor := none } :=
    congrArg Calm.play h
  rw [setPlay_calm]
  have e : calm { t with play := { t.play with loop := { t.play.loop with armed := false, count := 0 } } } =
      { calm t with play := { t.play with loop := { t.play.loop with armed := false, count := 0 } } } := rfl
  rw [e, h, hp]

/-! ## The reader -/

/-- A change of the reader and of the playback record alone. -/
def readerOnly (s t : State) : Prop := ∃ r p, calm t = { calm s with scr := r, play := p }

theorem readerOnly.refl (s : State) : readerOnly s s := ⟨s.scr, s.play, rfl⟩

theorem readerOnly.trans {s t u : State} (h : readerOnly s t) (k : readerOnly t u) : readerOnly s u := by
  obtain ⟨r, p, h⟩ := h
  obtain ⟨r2, p2, k⟩ := k
  exact ⟨r2, p2, by rw [k, h]⟩

theorem readerOnly_of_calm {s t : State} (h : calm t = calm s) : readerOnly s t := ⟨s.scr, s.play, h⟩

theorem readerOnly_with (s : State) (r : Reader) (p : Play) : readerOnly s { s with scr := r, play := p } := ⟨r, p, rfl⟩

theorem readerOnly_setPlay (st : PlayState) (s : State) : readerOnly s (setPlay st s) := ⟨_, _, setPlay_calm st s⟩

theorem readerOnly_flush (s : State) : readerOnly s (flush s) := ⟨_, _, flush_calm s⟩

theorem readerOnly_answerSeek (r : Result) (s : State) : readerOnly s (answerSeek r s) := by
  unfold answerSeek
  split
  · exact (readerOnly_with s s.scr { s.play with seek := none }).trans (readerOnly_of_calm (answerOwed_calm _ _ _ _))
  · exact readerOnly.refl s

/-- R149: the end of playback. -/
theorem readerOnly_endPlayback (c : PlayEnd) (s : State) : readerOnly s (endPlayback c s) :=
  (((readerOnly_with s s.scr { s.play with endCause := c, held := KeySet.none, prompts := [] }).trans
    (readerOnly_of_calm (dropPlayback_calm _))).trans (readerOnly_flush _)).trans (readerOnly_setPlay _ _)

/-- R140: a chain read past the SCORE region. -/
theorem readerOnly_scoreFault (off : Nat) (s : State) : readerOnly s (scoreFault off s) :=
  ((readerOnly_of_calm (regionFaultAt_calm _ _ s)).trans (readerOnly_endPlayback _ _)).trans (readerOnly_answerSeek _ _)

theorem readerOnly_readHeader (b : Nat) (s : State) : readerOnly s (readHeader b s) := by
  unfold readHeader
  split
  · exact readerOnly_scoreFault _ s
  · exact readerOnly_with s _ s.play

theorem readerOnly_followLink (h : HeaderCopy) (s : State) : readerOnly s (followLink h s) := by
  unfold followLink
  split
  · exact (readerOnly_with s _ s.play).trans (readerOnly_readHeader _ _)
  · split
    · exact ((readerOnly_flush s).trans (readerOnly_setPlay _ _)).trans (readerOnly_answerSeek _ _)
    · exact readerOnly_with s _ s.play

/-- R137: the reader's next read. -/
theorem readerOnly_readerGo (s : State) : readerOnly s (readerGo s) := by
  unfold readerGo
  split
  · split
    · exact readerOnly_with s _ s.play
    · split
      · exact readerOnly_readHeader _ s
      · split
        · exact readerOnly_with s _ s.play
        · exact readerOnly_followLink _ s
      · exact readerOnly.refl s
  · exact readerOnly.refl s

/-- R172: ORD's read of the score descriptor. -/
theorem readerOnly_takeFirstBlock (n : Word) (s : State) : readerOnly s (takeFirstBlock n s) := by
  unfold takeFirstBlock
  split
  · exact (readerOnly_with s _ s.play).trans (readerOnly_readerGo _)
  · exact readerOnly.refl s

/-- The end of an access without a row leaves the calm part but for the reader and the playback record. -/
theorem readerOnly_passAccess (s : State) : readerOnly s (passAccess s) := by
  cases h : rowlessHead s with
  | none => rw [passAccess_none h]; exact readerOnly.refl s
  | some a =>
    by_cases hf : ∃ n, a = .firstBlock n
    · obtain ⟨n, rfl⟩ := hf
      rw [passAccess_some h]
      exact ((readerOnly_of_calm (t := endOrd s) rfl).trans (readerOnly_takeFirstBlock n (endOrd s))).trans
        (readerOnly_of_calm (finish_calm _))
    · exact readerOnly_of_calm (quiet_passAccess h fun n e => hf ⟨n, e⟩).calm

theorem readerOnly_idle (s : State) : readerOnly s (idle s) := by
  unfold idle
  split
  · exact readerOnly.refl s
  · exact readerOnly_passAccess s

theorem readerOnly_passMany : ∀ (n : Nat) (s : State), readerOnly s (passMany n s)
  | 0, s => readerOnly.refl s
  | n + 1, s => by
    unfold passMany
    split
    · exact (readerOnly_passAccess s).trans (readerOnly_passMany n _)
    · exact readerOnly.refl s

theorem readerOnly_settle (s : State) : readerOnly s (settle s) := readerOnly_passMany _ s

end Sys2Proof.Machine
end

