-- ==== Sys2Proof/Laws/Acts.lean ====
section
/-!
SUPPORT. What a command answers when its event happens, and what the shared operations leave of the records outside the calm part.
-/

namespace Sys2Proof.Machine

/-! ## Outcomes -/

theorem act_on {b : Bool} {f : State → State} {s : State} (h : s.inReset = false) (hb : b = true) :
    act b f s = .next (finish (f s)) := by
  simp [act, h, hb]

theorem act_off {b : Bool} {f : State → State} {s : State} (hb : b = false) : act b f s = .next s := by
  simp [act, hb]

theorem orderAct_running {slot : Slot} {seq : Half} {f : State → State} {s : State} (h : s.inReset = false)
    (hr : s.running = true) : orderAct slot seq f s = .next (finish (f s)) := by
  simp [orderAct, act, h, whenRunning, hr]

theorem orderAct_stopped {slot : Slot} {seq : Half} {f : State → State} {s : State} (h : s.inReset = false)
    (hr : s.running = false) :
    orderAct slot seq f s = .next (finish (answer slot seq .refusedState s)) := by
  simp [orderAct, act, h, whenRunning, hr]

theorem transact_free {code : Byte} {sent : List Nib} {n : Nat} {s : State} (h : s.inReset = false)
    (hf : takesCommand code s = true) : transact code sent n s = .next (finish (openByCode code sent n s)) := by
  simp [transact, h, hf]

/-- R190: a register transaction opens whenever LSEL is high. -/
theorem takesCommand_register {code : Byte} {s : State} (h : s.link.mode = .closed) (hc : code = 0x31 ∨ code = 0x32) :
    takesCommand code s = true := by
  rcases hc with rfl | rfl <;> simp [takesCommand, h]

/-- A port with LSEL high and no word waiting takes every command byte. -/
theorem takesCommand_free {code : Byte} {s : State} (h : s.link.mode = .closed) (hr : s.link.request = none) :
    takesCommand code s = true := by
  simp [takesCommand, h, hr]

theorem whenDone_now {e : State → Bool} {f : State → State} {s : State} (h : s.inReset = false) (he : e s = true) :
    whenDone e f s = .next (finish (f s)) := by
  simp [whenDone, h, he]

theorem whenDone_later {e : State → Bool} {f : State → State} {s : State} (h : s.inReset = false) (he : e s = false)
    (hl : e (settle s) = true) : whenDone e f s = .next (finish (f (settle s))) := by
  simp [whenDone, h, he, hl]

theorem whenDone_not {e : State → Bool} {f : State → State} {s : State} (he : e s = false) (hl : e (settle s) = false) :
    whenDone e f s = .next s := by
  simp [whenDone, he, hl]

/-! ## Notices -/

theorem noticed_notice (n : Notice) (s : State) : noticed n (notice n s) = true := by
  obtain ⟨l, _, h⟩ := notice_eq n s
  rw [h]
  have hn : n.word ≠ 0 := by cases n <;> decide
  simp only [noticed, bne_iff_ne, ne_eq]
  intro h0
  apply hn
  have h2 : (s.ord.summary ||| n.word) &&& n.word = n.word := by
    ext i hi
    simp only [BitVec.getElem_and, BitVec.getElem_or]
    cases s.ord.summary[i] <;> cases n.word[i] <;> rfl
  rw [h2] at h0
  exact h0

theorem noticed_grows {n : Notice} {s t : State} (h : s.ord.summary &&& t.ord.summary = s.ord.summary)
    (hn : noticed n s = true) : noticed n t = true := by
  simp only [noticed, bne_iff_ne, ne_eq] at *
  intro h0
  apply hn
  rw [← h, BitVec.and_assoc, h0]
  simp

theorem noticed_of_quiet {n : Notice} {s t : State} (q : Quiet s t) (hn : noticed n s = true) : noticed n t = true :=
  noticed_grows q.grows hn

/-- The bit of a notice in a word of notices. -/
theorem and_word (n : Notice) (x : Half) : (x &&& n.word != 0) = x.getLsbD n.bit := by
  have hw : n.word = BitVec.twoPow 16 n.bit := by cases n <;> rfl
  rw [hw, BitVec.and_twoPow]
  cases h : x.getLsbD n.bit
  · simp
  · have : BitVec.twoPow 16 n.bit ≠ 0 := by cases n <;> decide
    simpa using this

theorem noticed_eq (n : Notice) (s : State) : noticed n s = s.ord.summary.getLsbD n.bit := and_word n _

theorem word_bit (n m : Notice) : m.word.getLsbD n.bit = (n == m) := by
  cases n <;> cases m <;> rfl

/-- R173: the read of a watched word clears its flag. -/
theorem takeWatched_trigger (w : Watched) (s : State) : (takeWatched w s).ord.triggers[w.index] = false := by
  have h : (takeWatched w s).ord.triggers = s.ord.triggers.set w.index.val false w.index.isLt := rfl
  rw [h]
  simp

/-! ## Triggers -/

/-- R173: a trigger sets ORD's flag of its word and may queue a read; nothing else changes. -/
theorem trigger_eq (w : Watched) (s : State) : ∃ o, trigger w s = { s with ord := o }
    ∧ o.triggers = s.ord.triggers.set w.index.val true w.index.isLt := by
  unfold trigger
  split
  · rename_i h
    refine ⟨s.ord, rfl, ?_⟩
    rw [Fin.getElem_fin] at h
    ext i hi
    rw [Vector.getElem_set]
    split
    · rename_i he
      subst he
      rw [h]
    · rfl
  · exact ⟨_, rfl, rfl⟩

theorem index_inj : ∀ v w : Watched, v.index = w.index → v = w := by
  intro v w h
  cases v <;> cases w <;> first
    | rfl
    | (rename_i a b; cases a <;> cases b <;> first | rfl | (simp [Watched.index] at h))
    | (rename_i a; cases a <;> simp [Watched.index] at h)
    | (simp [Watched.index] at h)

theorem trigger_at (v w : Watched) (s : State) :
    (trigger v s).ord.triggers[w.index] = (v == w || s.ord.triggers[w.index]) := by
  obtain ⟨o, h, ht⟩ := trigger_eq v s
  rw [h, Fin.getElem_fin, Fin.getElem_fin]
  show o.triggers[w.index.val] = _
  rw [ht, Vector.getElem_set]
  by_cases e : v = w
  · simp [e]
  · have hi : v.index.val ≠ w.index.val := fun hh => e (index_inj _ _ (Fin.ext hh))
    simp [hi, e]

theorem triggerAll_eq : ∀ (l : List Watched) (s : State), ∃ o, triggerAll l s = { s with ord := o }
  | [], s => ⟨s.ord, rfl⟩
  | w :: ws, s => by
    obtain ⟨o, h, _⟩ := trigger_eq w s
    obtain ⟨o2, h2⟩ := triggerAll_eq ws (trigger w s)
    refine ⟨o2, ?_⟩
    show triggerAll ws (trigger w s) = _
    rw [h2, h]

/-- R173: the flags after several triggers: those triggered, and those that were set before. -/
theorem triggerAll_at : ∀ (l : List Watched) (w : Watched) (s : State),
    (triggerAll l s).ord.triggers[w.index] = (l.contains w || s.ord.triggers[w.index])
  | [], _, _ => rfl
  | v :: ws, w, s => by
    show (triggerAll ws (trigger v s)).ord.triggers[w.index] = _
    rw [triggerAll_at ws w, trigger_at, List.contains_cons, ← Bool.or_assoc]
    congr 1
    rw [Bool.or_comm]
    congr 1
    exact BEq.comm

/-! ## Blocks -/

/-- A notice leaves everything but ORD's summary and list. -/
theorem notice_ord_only (n : Notice) (s : State) : notice n s = { s with ord := (notice n s).ord } := by
  obtain ⟨l, _, h⟩ := notice_eq n s
  rw [h]

/-- R143: a change of the playback state notices PLAY_STATE. -/
theorem noticed_setPlay {st : PlayState} {s : State} (h : s.play.state ≠ st) : noticed .playState (setPlay st s) = true := by
  unfold setPlay
  rw [if_neg h]
  exact noticed_notice _ _

/-- The voice table is all that `mapVoices` changes, with the fetch order. -/
@[simp] theorem mapVoices_voices (f : Voice → Voice) (s : State) (i : Fin 80) :
    (mapVoices f s).voices[i] = f s.voices[i] := by
  simp [mapVoices, pruneOrder]

theorem mapVoices_eq (f : Voice → Voice) (s : State) :
    ∃ vs fo, mapVoices f s = { s with voices := vs, fetchOrder := fo } := ⟨_, _, rfl⟩

/-! ## Voices sent to FADING -/

/-- R101: what `fadeVoices` does to the voice table, for a choice by source. -/
theorem fadeVoices_sendsToFading (p : VoiceSource → Bool) (s : State) :
    sendsToFading p s (fadeVoices (fun v => p v.source) s) := by
  intro i
  have h : (fadeVoices (fun v => p v.source) s).voices[i] =
      if (s.voices[i]).state.active && p (s.voices[i]).source then (s.voices[i]).faded else s.voices[i] :=
    mapVoices_voices _ _ _
  dsimp only
  rw [h]
  generalize s.voices[i] = v
  refine ⟨fun hp hs => ?_, fun hp hs => ?_, fun hs => ?_⟩
  · simp [hp, hs, VoiceState.active, Voice.faded, Voice.freed]
  · rcases hs with hs | hs | hs <;> simp [hp, hs, VoiceState.active, Voice.faded]
  · rcases hs with hs | hs | hs <;> simp [hs, VoiceState.active]

/-- A sostenuto fall that follows finds no HELD voice of its source (R117, R152). -/
theorem sostenutoFall_sendsToFading {src : VoiceSource} {p : VoiceSource → Bool} (hp : p src = true) (keys : KeySet)
    {s t : State} (h : sendsToFading p s t) : sendsToFading p s (sostenutoFall src keys t) := by
  intro i
  have hi : (sostenutoFall src keys t).voices[i] = (t.voices[i]).fallen src keys := mapVoices_voices _ _ _
  have e : (sostenutoFall src keys t).voices[i] = t.voices[i] := by
    rw [hi]
    obtain ⟨h1, h2, h3⟩ := h i
    generalize s.voices[i] = v at h1 h2 h3
    generalize t.voices[i] = w at h1 h2 h3 ⊢
    unfold Voice.fallen
    split
    · rename_i hc
      simp only [Bool.and_eq_true, beq_iff_eq] at hc
      exfalso
      cases hv : v.state <;> cases hq : p v.source <;> simp_all
    · rfl
  have := h i
  dsimp only at this ⊢
  rw [e]
  exact this

end Sys2Proof.Machine
end

