-- ==== Sys2Proof/Laws/Exec.lean ====
section
/-!
SUPPORT. What `exec` does for each command, by definition: the one lemma to open a command with.
-/

namespace Sys2Proof.Machine

theorem exec_scanCompletion (x : Scan) (s : State) :
    exec (.scanCompletion x) s =
      act true (scanWork x) s := rfl

theorem exec_restCaptureComplete (x : Scan) (s : State) :
    exec (.restCaptureComplete x) s =
      act (completesRest s) (scanWork x) s := rfl

theorem exec_bottomCaptureExpired (x : Scan) (s : State) :
    exec (.bottomCaptureExpired x) s =
      act (expiresBottom s) (scanWork x) s := rfl

theorem exec_settleCountdownExpiry (x : Scan) (s : State) :
    exec (.settleCountdownExpiry x) s =
      act (settled x s (scanWork x s)) (scanWork x) s := rfl

theorem exec_railTick (x : Scan) (s : State) :
    exec (.railTick x) s =
      act (isRailTick s) (scanWork x) s := rfl

theorem exec_inputFilterChange (i : RailInput) (x : Scan) (s : State) :
    exec (.inputFilterChange i x) s =
      act (filterChanged i s (scanWork x s)) (scanWork x) s := rfl

theorem exec_travelLimitStall (x : Scan) (s : State) :
    exec (.travelLimitStall x) s =
      act (stalledByTravel s (scanWork x s)) (scanWork x) s := rfl

theorem exec_holdLimitExpiry (x : Scan) (s : State) :
    exec (.holdLimitExpiry x) s =
      act (endedByHold s (scanWork x s)) (scanWork x) s := rfl

theorem exec_reversalDwellEnd (x : Scan) (s : State) :
    exec (.reversalDwellEnd x) s =
      act (dwellEnded s (scanWork x s)) (scanWork x) s := rfl

theorem exec_keyViewRefresh (s : State) :
    exec .keyViewRefresh s =
      whenDone viewRefreshDue takeView s := rfl

theorem exec_statusRefresh (s : State) :
    exec .statusRefresh s =
      whenDone statusRefreshDue takeStatus s := rfl

theorem exec_audioBlock (before : Nat) (s : State) :
    exec (.audioBlock before) s =
      act true (audioWork before) s := rfl

theorem exec_scoreReadDone (s : State) :
    exec .scoreReadDone s =
      whenDone (fun s => s.busy == some .scr) endScoreRead s := rfl

theorem exec_burstArrives (s : State) :
    exec .burstArrives s =
      whenDone (fun s => s.busy == some .sfu) endBurst s := rfl

theorem exec_journalRecordWriteDone (s : State) :
    exec .journalRecordWriteDone s =
      whenDone writesRecord (fun s => recordWritten (endAccess s)) s := rfl

theorem exec_writeMarkWordWritten (s : State) :
    exec .writeMarkWordWritten s =
      whenDone writesMark (fun s => markWritten (endAccess s)) s := rfl

theorem exec_linkStoreRead (sent : List Nib) (bytes : Nat) (s : State) :
    exec (.linkStoreRead sent bytes) s =
      transact 0x21 sent bytes s := rfl

theorem exec_linkStoreWrite (sent : List Nib) (s : State) :
    exec (.linkStoreWrite sent) s =
      transact 0x22 sent 0 s := rfl

theorem exec_linkWordAccessDone (s : State) :
    exec .linkWordAccessDone s =
      whenDone (fun s => s.busy == some .link) linkAccessDone s := rfl

theorem exec_linkAged (s : State) :
    exec .linkAged s =
      act (ages s) (fun s => { s with link.aged := true }) s := rfl

theorem exec_bankSet (sent : List Nib) (s : State) :
    exec (.bankSet sent) s =
      transact 0x41 sent 0 s := rfl

theorem exec_regRead (sent : List Nib) (s : State) :
    exec (.regRead sent) s =
      transact 0x31 sent 0 s := rfl

theorem exec_unknownCommand (code : Byte) (s : State) :
    exec (.unknownCommand code) s =
      transact code [] 0 s := rfl

theorem exec_lselRise (landed : Nat) (s : State) :
    exec (.lselRise landed) s =
      .next (if s.link.mode = .closed then s else if (raiseLsel landed s).inReset then raiseLsel landed s else finish (raiseLsel landed s)) := rfl

theorem exec_areaWrite (value : Word) (s : State) :
    exec (.areaWrite value) s =
      transact 0x32 (registerNibbles 0x04 value) 0 s := rfl

theorem exec_regWrite (sent : List Nib) (s : State) :
    exec (.regWrite sent) s =
      transact 0x32 sent 0 s := rfl

theorem exec_runRising (s : State) :
    exec .runRising s =
      transact 0x32 (registerNibbles 0x08 1) 0 s := rfl

theorem exec_runClear (s : State) :
    exec .runClear s =
      transact 0x32 (registerNibbles 0x08 0) 0 s := rfl

theorem exec_softReset (landed : Nat) (s : State) :
    exec (.softReset landed) s =
      .next (if !s.inReset && takesCommand 0x32 s then softReset landed s else s) := rfl

theorem exec_powerOn (s : State) :
    exec .powerOn s =
      .next (powerOn s) := rfl

theorem exec_resetLine (landed : Nat) (s : State) :
    exec (.resetLine landed) s =
      .next (resetByLine landed s) := rfl

theorem exec_resetEnd (l : Lines) (s : State) :
    exec (.resetEnd l) s =
      .next (if s.inReset then endReset l s else s) := rfl

theorem exec_noticeMask (s : State) :
    exec .noticeMask s =
      whenDone (readsWatched .mask) maskRead s := rfl

theorem exec_noticeAcknowledge (s : State) :
    exec .noticeAcknowledge s =
      whenDone (readsWatched .acknowledge) acknowledgeRead s := rfl

theorem exec_settingsSelector (s : State) :
    exec .settingsSelector s =
      whenDone (readsWatched .selector) selectorRead s := rfl

theorem exec_pageReadDone (s : State) :
    exec .pageReadDone s =
      whenDone readsPageEnd pageReadDone s := rfl

theorem exec_adoptionCompletion (l : Lines) (c : AdoptionChoice) (s : State) :
    exec (.adoptionCompletion l c) s =
      whenDone readsAdoptionEnd (adoptionReadDone l c) s := rfl

theorem exec_pageStatusWritten (s : State) :
    exec .pageStatusWritten s =
      whenDone writesPageStatus pageStatusDone s := rfl

theorem exec_orderWordTaken (slot : Slot) (order : List Nat) (s : State) :
    exec (.orderWordTaken slot order) s =
      whenDone (readsWatched (.order slot)) (orderRead slot order) s := rfl

theorem exec_unknownOrder (slot : Slot) (code : Byte) (seq : Half) (s : State) :
    exec (.unknownOrder slot code seq) s =
      act (!slot.knows code) (whenRunning slot seq (answer slot seq .unknownOrder)) s := rfl

theorem exec_answerWritten (s : State) :
    exec .answerWritten s =
      whenDone writesAnswer answerDone s := rfl

theorem exec_moveSilent (seq : Half) (s : State) :
    exec (.moveSilent seq) s =
      orderAct .rail seq (moveOrder .silent seq) s := rfl

theorem exec_moveAcoustic (seq : Half) (s : State) :
    exec (.moveAcoustic seq) s =
      orderAct .rail seq (moveOrder .acoustic seq) s := rfl

theorem exec_free (seq : Half) (s : State) :
    exec (.free seq) s =
      orderAct .rail seq (permissionOrder .free seq) s := rfl

theorem exec_hold (seq : Half) (s : State) :
    exec (.hold seq) s =
      orderAct .rail seq (permissionOrder .held seq) s := rfl

theorem exec_pin (seq : Half) (s : State) :
    exec (.pin seq) s =
      orderAct .rail seq (permissionOrder .pinned seq) s := rfl

theorem exec_clearFault (seq : Half) (s : State) :
    exec (.clearFault seq) s =
      orderAct .rail seq (clearFaultOrder seq) s := rfl

theorem exec_start (seq : Half) (s : State) :
    exec (.start seq) s =
      orderAct .play seq (startOrder seq) s := rfl

theorem exec_stop (seq : Half) (s : State) :
    exec (.stop seq) s =
      orderAct .play seq (stopOrder seq) s := rfl

theorem exec_pause (seq : Half) (s : State) :
    exec (.pause seq) s =
      orderAct .play seq (pauseOrder seq) s := rfl

theorem exec_resume (seq : Half) (s : State) :
    exec (.resume seq) s =
      orderAct .play seq (resumeOrder seq) s := rfl

theorem exec_tempo (seq : Half) (arg : Word) (s : State) :
    exec (.tempo seq arg) s =
      orderAct .play seq (tempoOrder seq arg) s := rfl

theorem exec_tracks (seq : Half) (arg : Word) (s : State) :
    exec (.tracks seq arg) s =
      orderAct .play seq (tracksOrder seq arg) s := rfl

theorem exec_seek (seq : Half) (arg : Word) (s : State) :
    exec (.seek seq arg) s =
      orderAct .play seq (seekOrder seq arg) s := rfl

theorem exec_loop (seq : Half) (arg : Word) (s : State) :
    exec (.loop seq arg) s =
      orderAct .play seq (loopOrder seq arg) s := rfl

theorem exec_skip (seq : Half) (s : State) :
    exec (.skip seq) s =
      orderAct .play seq (skipOrder seq) s := rfl

theorem exec_calRest (seq : Half) (order : List Nat) (s : State) :
    exec (.calRest seq order) s =
      orderAct .cal seq (captureOrder .rest seq order) s := rfl

theorem exec_calBottom (seq : Half) (order : List Nat) (s : State) :
    exec (.calBottom seq order) s =
      orderAct .cal seq (captureOrder .bottom seq order) s := rfl

theorem exec_calEnd (seq : Half) (s : State) :
    exec (.calEnd seq) s =
      orderAct .cal seq (endOrder seq) s := rfl

theorem exec_calAbandon (seq : Half) (s : State) :
    exec (.calAbandon seq) s =
      orderAct .cal seq (abandonOrder seq) s := rfl

theorem exec_calTableWritten (s : State) :
    exec .calTableWritten s =
      whenDone writesTableEnd calTableDone s := rfl

theorem exec_journalMark (seq : Half) (arg : Word) (s : State) :
    exec (.journalMark seq arg) s =
      orderAct .journal seq (markOrder seq arg) s := rfl

theorem exec_journalRestart (seq : Half) (s : State) :
    exec (.journalRestart seq) s =
      orderAct .journal seq (restartOrder seq) s := rfl

theorem exec_readMark (s : State) :
    exec .readMark s =
      whenDone (readsWatched .readMark) markRead s := rfl

theorem exec_outputFrameStart (s : State) :
    exec .outputFrameStart s =
      act true (fun s => countFrame (frameStart s)) s := rfl

/-! ## Steps on an empty queue -/

theorem step_rowless {s : State} {a : OrdAccess} (hp : s.pending = []) (hr : s.inReset = false)
    (h : rowlessHead s = some a) : step s = .next (finish (performAccess a (endOrd s))) := by
  simp [step, hp, idle, hr, passAccess, h]

end Sys2Proof.Machine
end

