-- ==== Sys2Proof/Tests/Slice0.lean ====
section
/-!
SUPPORT. Checks of our own: the ill-formed commands that WellFormed refuses, one state for the hypotheses of each statement, and a few single steps with the numbers that the manual works out.
-/

namespace Sys2Proof.Tests

-- The kernel checks these theorems one after another: side by side they would take a thread's stack each.
set_option Elab.async false

open Sys2Proof.Machine Sys2Proof.Config

/-! ## WellFormed -/

/-- A scan with every conversion 0 and the rail inputs at rest. -/
def anyScan : Scan := { conv := Vector.replicate 16 (Vector.replicate 6 0), lines := resetLines }

/-- The same scan with these open orders. -/
def scanWith (c : ScanChoice) : Scan := { anyScan with choice := c }

theorem test_wf_scan : (Instr.scanCompletion anyScan).wf = true := by decide
theorem test_wf_scan_bounds :
    (Instr.railTick (scanWith { riseOld := [87, 0], contextAt := 88, railAt := 88, voiceOrder := [199] })).wf = true := by decide
theorem test_ill_riseOld_range : (Instr.scanCompletion (scanWith { riseOld := [88] })).wf = false := by decide
theorem test_ill_riseOld_twice : (Instr.scanCompletion (scanWith { riseOld := [3, 3] })).wf = false := by decide
theorem test_ill_contextAt : (Instr.railTick (scanWith { contextAt := 89 })).wf = false := by decide
theorem test_ill_railAt : (Instr.reversalDwellEnd (scanWith { railAt := 89 })).wf = false := by decide
theorem test_ill_voiceOrder : (Instr.scanCompletion (scanWith { voiceOrder := [200] })).wf = false := by decide
theorem test_ill_guideOrder : (Instr.travelLimitStall (scanWith { guideOrder := [200] })).wf = false := by decide
theorem test_ill_journalOrder :
    (Instr.inputFilterChange .svc (scanWith { journalOrder := List.replicate 201 0 })).wf = false := by decide +kernel
theorem test_wf_audioBlock : (Instr.audioBlock 64).wf = true := by decide
theorem test_ill_audioBlock : (Instr.audioBlock 65).wf = false := by decide
theorem test_wf_unknownCommand : (Instr.unknownCommand 0x40).wf = true := by decide
theorem test_ill_unknownCommand : (Instr.unknownCommand 0x41).wf = false := by decide
theorem test_wf_landed : (Instr.softReset 2).wf = true := by decide
theorem test_ill_softReset : (Instr.softReset 3).wf = false := by decide
theorem test_ill_resetLine : (Instr.resetLine 3).wf = false := by decide
theorem test_ill_lselRise : (Instr.lselRise 3).wf = false := by decide
theorem test_ill_adoption : (Instr.adoptionCompletion resetLines { journalOrder := [200] }).wf = false := by decide
theorem test_ill_orderWord : (Instr.orderWordTaken .play [200]).wf = false := by decide
theorem test_ill_calRest : (Instr.calRest 1 [200]).wf = false := by decide
theorem test_ill_calBottom : (Instr.calBottom 1 [200]).wf = false := by decide
theorem test_wf_unknownOrder : (Instr.unknownOrder .journal 3 7).wf = true := by decide
theorem test_wf_unknownOrder_zero : (Instr.unknownOrder .rail 0 7).wf = true := by decide
theorem test_ill_unknownOrder : (Instr.unknownOrder .play 9 7).wf = false := by decide

/-! ## Small states -/

/-- A running part. -/
def run : State := { State.reset with running := true }

/-- A running part whose rail record is this. -/
def railed (r : Rail) : State := { run with rail := r }

/-- A rail at rest at an end, with the permission FREE. -/
def restRail (st : RailState) : Rail := { Rail.reset resetLines with state := st, perm := .free }

/-- A rail moving toward a target, with its limits. -/
def moveRail (st : RailState) (target : Target) : Rail :=
  { Rail.reset resetLines with state := st, perm := .free, target := target, dir := some target.direction,
                               limits := some ⟨1200, 3000, 60, 320⟩ }

/-- The rail's inputs with these switch levels. -/
def inputsAt (home stop : Bool) : Inputs := ⟨⟨home, 0⟩, ⟨stop, 0⟩, ⟨false, 0⟩, ⟨false, 0⟩⟩

/-- A running part in this playback record. -/
def playing (p : Play) : State := { run with play := p }

/-- A part with this capture running, so many scans in. -/
def capturing (k : CaptureKind) (n : Nat) : State :=
  { run with cap := { Capture.reset with running := some k, scans := n, order := some 5 } }

/-- A part whose store access in progress is ORD's `a`. -/
def atOrd (a : OrdAccess) : State :=
  { run with busy := some .ord, ord := { OrderUnit.reset with list := [a] } }

/-- A part whose JWR does this store access. -/
def atJwr (op : JournalOp) : State :=
  { run with busy := some .jwr, jwr := { Journal.reset with capacity := 256, w := 1050, r := 800, op := op } }

/-- A part with this link record. -/
def linked (l : Link) : State := { run with link := l }

/-- A prompt (R156). -/
def prompt (k : Fin 88) (due : Nat) (met : Bool) : Prompt := ⟨k, due, met⟩

/-! ## The hypotheses of the statements -/

theorem meets_StepIdlesOnEmptyQueue :
    State.reset.pending = [] ∧ rowlessHead State.reset = none
      ∧ rowlessHead (atOrd .summary) = some .summary ∧ (atOrd .summary).inReset = false
      ∧ rowlessHead (atOrd (.pageWord 41)) = some (.pageWord 41) ∧ rowlessHead (atOrd .pageTail) = none
      ∧ Memory.wf (atOrd .summary).store = true := by decide

theorem meets_StepIdlesOnEmptyQueue_list : listSound (atOrd .summary) := by
  intro a ha
  have h : a = .summary := by
    have : a ∈ [OrdAccess.summary] := ha
    simpa using this
  rw [h]
  exact sound_summary

theorem meets_ResetsGiveKeyRecords :
    State.reset.inReset = false ∧ State.reset.link.mode = .closed
      ∧ (linked { Link.reset with mode := .resetting }).link.mode = .resetting
      ∧ (State.reset.keys[(87 : Fin 88)]).lastVelocity = none := by decide

theorem meets_ResetsKeepWhatTheyKeep :
    run.busy = none ∧ run.inReset = false ∧ run.link.mode = .closed ∧ writeInProgress run = none
      ∧ (linked { Link.reset with mode := .resetting }).link.mode = .resetting
      ∧ writeInProgress (atOrd (.answer .play 9 .accepted)) = some (0x44, answerBytes 9 .accepted)
      ∧ writesWhole (atOrd (.answer .play 9 .accepted)) = false ∧ writesWhole (atOrd (.calEntry 7 CalEntry.reset)) = true
      ∧ writeInProgress (atJwr (.writing (recGap 3 9) true none none)) = some (26 * 8, (recGap 3 9).bytes)
      ∧ writeInProgress (atJwr (.restartRead 4)) = some (offReadMark, [0, 0, 0, 0])
      ∧ writeInProgress (atJwr .startWrite) = some (offWriteMark, [0, 0, 0, 0]) := by decide

/-- R193: with one word of a key view entry landed, its first word is new, its second old, and the byte behind it kept. -/
theorem meets_ResetsKeepWhatTheyKeep_landed :
    let s := { atOrd (.keyView 0x704 [1, 2, 3, 4, 5, 6, 7, 8] false) with store := [(0x708, 9), (0x70C, 9)] }
    Memory.wf s.store = true ∧ readBytes (abandonedStore 0 s) 0x704 4 = readBytes s.store 0x704 4
      ∧ readBytes (abandonedStore 1 s) 0x704 4 = [1, 2, 3, 4] ∧ readByte (abandonedStore 1 s) 0x708 = 9
      ∧ readBytes (abandonedStore 2 s) 0x704 8 = [1, 2, 3, 4, 5, 6, 7, 8] ∧ readByte (abandonedStore 2 s) 0x70C = 9
      ∧ (raiseLsel 2 { s with link.mode := .resetting }).store = abandonedStore 2 s := by decide +kernel

theorem meets_ResetEndGivesTheRail : { State.reset with inReset := true }.inReset = true := rfl

/-- A state in which every invariant says something: a byte in the store, a move in flight, an engaged sostenuto, prompts, a journal, a playback voice, a work area and a queued answer. -/
def full : State :=
  { run with
      store := [(0x4000, 7)]
      area := 0x0200_4000
      rail := moveRail .engaging .silent
      live := { Context.reset with engaged := true, held := KeySet.none.set 3 true }
      play := { Play.reset with state := .playing, prompts := [prompt 60 100 true, prompt 64 100 false],
                                loop := ⟨3, 4, 2, true⟩ }
      jwr := { Journal.reset with capacity := 256, w := 255, r := 0, op := .writing (recGap 3 9) true none none }
      voices := (Vector.replicate 80 Voice.reset).set 5 { Voice.reset with state := .held, source := .playback, key := 4 }
      settings := { Settings.reset with reserve := 64 }
      ord := { OrderUnit.reset with list := [.answer .journal 1 .completed] } }

theorem meets_StoreStaysCanonical : Memory.wf full.store = true ∧ step full = .next full := ⟨by decide, rfl⟩
theorem meets_MotorRunsOnlyWhenAllowed : full.rail.sound ∧ step full = .next full :=
  ⟨⟨fun _ => rfl, fun _ => rfl⟩, rfl⟩
theorem meets_SostenutoSetsStaySound : full.live.sound ∧ full.playback.sound ∧ step full = .next full :=
  ⟨.inl rfl, .inr rfl, rfl⟩
theorem meets_PromptSetStaysSound : full.play.sound ∧ step full = .next full := by
  refine ⟨⟨by decide, by decide, ?_, by decide, by decide⟩, rfl⟩
  rintro (h | h | h) <;> cases h
theorem meets_JournalFillStaysInCapacity : journalSound full ∧ step full = .next full :=
  ⟨⟨⟨by decide, by decide, fun _ _ _ _ _ => by decide⟩, by decide⟩, rfl⟩
theorem meets_OneActiveVoicePerKeyAndSource : voicesSound full.voices ∧ step full = .next full := by
  refine ⟨?_, rfl⟩
  have h : ∀ i : Fin 80, (full.voices[i]).state.active = true → i = 5 := by decide +kernel
  intro i j hi hj _ _
  rw [h i hi, h j hj]
theorem meets_PlaybackVoicesStayUnderTheCap : capSound full ∧ step full = .next full := by
  refine ⟨?_, rfl⟩
  show playbackCount full ≤ playbackCap full
  decide +kernel
theorem meets_WorkAreaStaysSound : areaSound full ∧ step full = .next full := ⟨by unfold areaSound; decide, rfl⟩
theorem meets_OrdListSound : listSound full := by
  intro a ha
  have h : a = .answer .journal 1 .completed := by
    have : a ∈ [OrdAccess.answer .journal 1 .completed] := ha
    simpa using this
  rw [h]
  exact sound_answer _ _ _
theorem meets_NothingElseIsWritten :
    exec (.resetEnd resetLines) full = .next full ∧ exec (.lselRise 1) full = .next full ∧ full.link.mode ≠ .resetting
      ∧ followsAccess (.lselRise 1) = false ∧ followsAccess (.audioBlock 0) = false ∧ followsAccess .readMark = true
      ∧ rowlessHead (atOrd (.trigger .readMark)) = none ∧ areaSound full ∧ outsideArea full 0x200_3FFF
      ∧ outsideArea full 0x200_8000 ∧ outsideArea full 0 ∧ outsideArea full 0x3FF_FFFF :=
  ⟨rfl, rfl, by decide, rfl, rfl, rfl, by decide, by unfold areaSound; decide, by unfold outsideArea; decide,
    by unfold outsideArea; decide, by unfold outsideArea; decide, by unfold outsideArea; decide⟩

/-- A sensor at depth 400 with this candidate and this count of glitches. -/
def sensorAt (c : Option Candidate) (glitches : Nat) : Sensor := ⟨0, 400, c, glitches, false⟩

/-- The four cases of R4 with J = 300, at their bounds, and the counter of R5. -/
theorem meets_ScanMakesValuesCurrentAndEvaluatesKeys :
    State.reset.running = false ∧ run.inReset = false ∧ run.running = true ∧ run.cap.running = none
      ∧ (capturing .rest 254).cap.running = some .rest ∧ (capturing .rest 254).cap.scans + 1 < 256
      ∧ (filterDepth 300 2 700 (sensorAt none 0)).sensor.depth = 700
      ∧ (filterDepth 300 2 701 (sensorAt none 0)).sensor = sensorAt (some ⟨701, 1⟩) 0
      ∧ (filterDepth 300 1 701 (sensorAt none 0)).sensor.depth = 701
      ∧ (filterDepth 300 2 1001 (sensorAt (some ⟨701, 1⟩) 0)).sensor.depth = 1001
      ∧ (filterDepth 300 3 1001 (sensorAt (some ⟨701, 1⟩) 0)).sensor = sensorAt (some ⟨1001, 2⟩) 0
      ∧ filterDepth 300 2 1002 (sensorAt (some ⟨701, 1⟩) 254)
          = ⟨{ sensorAt (some ⟨1002, 1⟩) 255 with noisy := true }, true⟩
      ∧ (filterDepth 300 1 1002 (sensorAt (some ⟨701, 1⟩) 255)).sensor.glitches = 255
      ∧ (run.keys[(0 : Fin 88)]).state = .disabled ∧ (run.cal[(0 : Fin 96)]).bt < (run.cal[(0 : Fin 96)]).rz + 256
      ∧ (100 : Nat) + 256 ≤ 356 := by decide +kernel

/-- A pedal record in a mode. -/
def pedalIn (m : PedalMode) : PedalRec := ⟨m, sensorAt none 0, 384, false⟩

theorem meets_ScanEvaluatesPedals :
    run.inReset = false ∧ run.running = true ∧ run.cap.running = none ∧ (run.pedals[(0 : Fin 3)]).mode = .disabled
      ∧ (capturing .bottom 479998).cap.running = some .bottom ∧ (capturing .bottom 479998).cap.scans + 1 < 480000
      ∧ (pedalIn .active).mode = .active ∧ (pedalIn .frozen).mode = .frozen
      ∧ 16 ≤ (400 - (pedalIn .active).lastDepth) + ((pedalIn .active).lastDepth - 400)
      ∧ Settings.reset.pedalStep ≤ 16 ∧ { Journal.reset with taking := true }.taking = true := by decide +kernel

/-- A key record in a state at a depth, with a timing where its state has one. -/
def keyAt (st : KeyState) (depth : Nat) : KeyRec :=
  ⟨st, ⟨0, depth, none, 0, false⟩, if st = .descent ∨ st = .repeatDescent then some ⟨1, 300⟩ else none, none, .none⟩

/-- The state a key goes to at scan 5 under the reset settings: U 120, D 260, P 600, L 880. -/
def goesTo (st : KeyState) (depth : Nat) : KeyState := (evaluate Settings.reset 5 60 0 (keyAt st depth)).key.state

theorem meets_KeyChecksFollowTheTable :
    goesTo .idle 880 = .sounding ∧ goesTo .idle 879 = .descent ∧ goesTo .idle 120 = .descent ∧ goesTo .idle 119 = .idle
      ∧ goesTo .descent 880 = .sounding ∧ goesTo .descent 119 = .idle ∧ goesTo .descent 120 = .descent
      ∧ goesTo .sounding 119 = .idle ∧ goesTo .sounding 259 = .returning ∧ goesTo .sounding 260 = .rearmed
      ∧ goesTo .sounding 599 = .rearmed ∧ goesTo .sounding 600 = .sounding
      ∧ goesTo .rearmed 119 = .idle ∧ goesTo .rearmed 259 = .returning ∧ goesTo .rearmed 880 = .sounding
      ∧ goesTo .rearmed 600 = .repeatDescent ∧ goesTo .rearmed 260 = .rearmed ∧ goesTo .rearmed 599 = .rearmed
      ∧ goesTo .repeatDescent 880 = .sounding ∧ goesTo .repeatDescent 259 = .returning
      ∧ goesTo .repeatDescent 260 = .rearmed ∧ goesTo .repeatDescent 599 = .rearmed
      ∧ goesTo .repeatDescent 600 = .repeatDescent
      ∧ goesTo .returning 119 = .idle ∧ goesTo .returning 880 = .sounding ∧ goesTo .returning 260 = .descent
      ∧ goesTo .returning 120 = .returning ∧ goesTo .returning 259 = .returning := by decide +kernel

/-- Conversions by which channel 60 reads 259, channel 61 reads 900, channel 89 reads `sostenuto` and every other 0. -/
def conversions (sostenuto : BitVec 12) : Vector (Vector (BitVec 12) 6) 16 :=
  Vector.ofFn fun p => Vector.ofFn fun i =>
    if p = 12 ∧ i = 3 then 259 else if p = 13 ∧ i = 3 then 900 else if p = 9 ∧ i = 5 then sostenuto else 0

/-- A running part whose key 60 sounds just above D and whose key 61 descends just below L, with the sostenuto pedal at rest. -/
def playingKeys : State :=
  { run with
      keys := ((Vector.replicate 88 (keyAt .disabled 0)).set 60 (keyAt .sounding 262)).set 61 (keyAt .descent 879)
      cal := (((Vector.replicate 96 CalEntry.reset).set 60 ⟨0, 1023, false, false⟩).set 61 ⟨0, 1023, false, false⟩).set 89
        ⟨0, 1023, false, false⟩
      pedals := Vector.replicate 3 ⟨.active, ⟨0, 0, none, 0, false⟩, 0, false⟩
      jwr := { Journal.reset with taking := true } }

/-- R21, R22: the KEY_OFF and the KEY_ON of one scan reach JWR with its count. -/
theorem meets_ScanHandsKeyEvents :
    let x : Scan := { anyScan with conv := conversions 0 }
    let event := fun k : Fin 88 =>
      (scanKey Settings.reset playingKeys.cal[keyChannel k] 1 k 0 (scanRaw x.conv)[keyChannel k] playingKeys.keys[k]).event
    playingKeys.running = true ∧ playingKeys.inReset = false ∧ playingKeys.cap.running = none
      ∧ event 60 = some (.off false) ∧ event 61 = some (.on 127 false) ∧ event 62 = none
      ∧ x.choice.railFirst = false ∧ (scanWith { railFirst := true }).choice.railFirst = true
      ∧ ((scanWork x playingKeys).jwr.hand.take 2 =
          [.record (recKeyOff 60 false 1) none, .record (recKeyOn 61 127 false 1) none]) := by decide +kernel

/-- R36, R37: the scan's LIVE context at S_on and below S_off, with every pedal FROZEN or none. -/
theorem meets_ScanEvaluatesPedals_context :
    let low : Scan := { anyScan with conv := conversions 499 }
    let high : Scan := { anyScan with conv := conversions 500, choice := { riseOld := [60] } }
    let part := { playingKeys with settings := { Settings.reset with confirm := 0 } }
    (scanWork low part).live.engaged = false ∧ (scanWork high part).live.engaged = true
      ∧ (scanWork high part).live.held[(60 : Fin 88)] = true ∧ (scanWork high part).live.held[(61 : Fin 88)] = true
      ∧ part.live.engaged = false ∧ part.settings.sOff ≤ 350 ∧ 349 < part.settings.sOff
      ∧ { part.live with engaged := true }.engaged = true ∧ (pedalIn .frozen).mode = .frozen := by decide +kernel

/-- R3 at the bounds of its three rows, R17 at 0, 1, 4095, 4096 and over a wrap, R19 on a falling segment and at q = 4096, R20 on the manual's worked case. -/
theorem meets_DepthsAndVelocitiesFollowTheFormulas :
    (CalEntry.mk 100 356 false false).valid = true ∧ (CalEntry.mk 100 355 false false).valid = false
      ∧ depthOf ⟨600, 3400, false, false⟩ 600 = 0 ∧ depthOf ⟨600, 3400, false, false⟩ 1100 = 182
      ∧ depthOf ⟨600, 3400, false, false⟩ 3399 = 1022 ∧ depthOf ⟨600, 3400, false, false⟩ 3400 = 1023
      ∧ elapsed 5 5 = 1 ∧ elapsed 6 5 = 1 ∧ elapsed 4100 5 = 4095 ∧ elapsed 4101 5 = 4095 ∧ elapsed 3 0xFFFF_FFFF = 4
      ∧ curveVelocity (Vector.ofFn fun i => 127 - i.val) 128 = 127 ∧ curveVelocity Settings.reset.curve 4096 = 127
      ∧ (∀ i : Fin 17, 1 ≤ Settings.reset.curve[i] ∧ Settings.reset.curve[i] ≤ 127)
      ∧ velocity { Settings.reset with usoft := 24, trims := Vector.replicate 88 2 } 62 760 50 300 = 47 := by
  decide +kernel

theorem meets_SpeedIsNormalised : 64 ≤ (64 : Nat) ∧ 1 ≤ (1 : Nat) ∧ 64 ≤ speed 984 1 ∧ (984 : Nat) ≤ 984 := by decide

theorem meets_ContextEvaluationComputesDamper :
    run.settings.dlo < run.settings.dhi ∧ 200 ≤ run.settings.dlo ∧ run.settings.dlo < 201 ∧ 699 < run.settings.dhi
      ∧ run.settings.dhi ≤ 700 := by decide

theorem meets_CapturesTakeScans :
    (capturing .rest 255).inReset = false ∧ (capturing .rest 255).running = true
      ∧ (capturing .rest 255).cap.running = some .rest ∧ (capturing .rest 255).cap.scans + 1 = 256
      ∧ (capturing .rest 254).cap.scans + 1 < 256
      ∧ Nat.min 100 148 + 48 = Nat.max 100 148 ∧ Nat.min 100 149 + 48 < Nat.max 100 149
      ∧ (capturing .bottom 479999).cap.running = some .bottom ∧ (capturing .bottom 479999).cap.scans + 1 = 480000
      ∧ (capturing .bottom 479998).cap.scans + 1 < 480000
      ∧ ((capturing .bottom 479999).cal[(0 : Fin 96)]).rz + 256 ≤ Nat.max 0 256
      ∧ Nat.max 0 255 < ((capturing .bottom 479999).cal[(0 : Fin 96)]).rz + 256 := by decide +kernel

/-- A part with a capture running, its keys in CAPTURE and its pedals FROZEN. -/
def captured (k : CaptureKind) (n : Nat) : State :=
  { capturing k n with keys := Vector.replicate 88 (keyAt .capture 400), pedals := Vector.replicate 3 (pedalIn .frozen) }

theorem meets_CapturesTakeScans_leaving :
    ((captured .rest 255).keys[(87 : Fin 88)]).state = .capture ∧ ((captured .rest 255).keys[(87 : Fin 88)]).cause = .none
      ∧ ((captured .rest 255).pedals[(2 : Fin 3)]).mode = .frozen ∧ { pedalIn .frozen with wasActive := true }.wasActive = true
      ∧ ((captured .rest 255).cal[(87 : Fin 96)]).bt < ((captured .rest 255).cal[(87 : Fin 96)]).rz + 256
      ∧ (CalEntry.mk 0 256 false false).rz + 256 ≤ (CalEntry.mk 0 256 false false).bt := by decide +kernel

/-- R31: the capture's end hands the depths to the LIVE context; the depth of 600 raises the sostenuto, and a DISABLED pedal's 0 lets it fall. -/
theorem meets_CapturesTakeScans_context :
    let cal := Vector.replicate 96 (CalEntry.mk 0 1023 false false)
    let pressed := { pedalIn .frozen with sensor := ⟨600, 0, none, 0, false⟩ }
    let s := { captured .rest 9 with cal := cal, pedals := Vector.replicate 3 pressed }
    let t := { captured .rest 9 with live := { Context.reset with engaged := true, sostenuto := 600, held := KeySet.none } }
    (leaveCapture s).live.sostenuto = 600 ∧ (leaveCapture s).live.engaged = true ∧ (leaveCapture s).live.zone = .half
      ∧ (leaveCapture t).live.sostenuto = 0 ∧ (leaveCapture t).live.engaged = false
      ∧ t.live.engaged = true ∧ (captured .rest 255).live.engaged = false := by decide +kernel

theorem meets_CaptureStarts : run.cap.running = none ∧ run.cap.finishing = false := by decide

/-- R24: a capture start ends the note of key 60 with a CAL-flagged KEY_OFF, and drops a candidate. -/
theorem meets_CaptureStarts_notes :
    let s := { playingKeys with keys := playingKeys.keys.set 61 { keyAt .descent 400 with sensor.cand := some ⟨9, 1⟩ } }
    (beginCapture .rest 7 [] s).jwr.hand = [.record (recKeyOff 60 true 0) none]
      ∧ (beginCapture .rest 7 [] s).keys[(61 : Fin 88)] = { keyAt .capture 400 with timing := none }
      ∧ { playingKeys with jwr := Journal.reset }.jwr.taking = false
      ∧ (full.voices[(5 : Fin 80)]).source ≠ .live ∧ Voice.reset.source = .live := by decide +kernel

theorem meets_CaptureOrdersEnd :
    (capturing .bottom 9).cap.running = some .bottom ∧ (capturing .rest 9).cap.running = some .rest
      ∧ { capturing .rest 9 with cap := { Capture.reset with finishing := true } }.cap.finishing = true
      ∧ run.cap.running = none := by decide

/-- A part at the scan before a rail tick, with this rail record. -/
def ticking (r : Rail) : State := { railed r with scanCount := 7 }

/-- R71: a scan that makes no strike, and one that does: key 60 in DESCENT whose conversions reach L. -/
theorem meets_RailEventsAreScanCompletions_strikes :
    (scanKey Settings.reset CalEntry.reset 8 60 0 0 (keyAt .disabled 0)).event = none
      ∧ (scanKey Settings.reset ⟨0, 1023, false, false⟩ 8 60 0 900 (keyAt .descent 899)).event ≠ none
      ∧ (scanWith { railFirst := true }).choice.railFirst = true ∧ anyScan.choice.railFirst = false
      ∧ run.cap.running = none ∧ (capturing .rest 254).cap.scans + 1 < 256 := by decide +kernel

theorem meets_RailEventsAreScanCompletions_settle :
    settled anyScan (railed { restRail .part with settle := 1 })
      (scanWork anyScan (railed { restRail .part with settle := 1 })) = true := by decide +kernel

/-- R71, R72: with RLC's evaluation before KSC's work, a countdown of 1 reaches 0 whatever the scan leaves. -/
theorem meets_RailEventsAreScanCompletions_settle_first :
    settled (scanWith { railFirst := true }) (railed { restRail .part with settle := 1 })
      (railed { restRail .part with settle := 320 }) = true := by decide +kernel
theorem meets_RailEventsAreScanCompletions_tick : isRailTick (ticking (restRail .part)) = true := by decide
theorem meets_RailEventsAreScanCompletions_filter :
    filterChanged .svc (ticking { restRail .part with inputs.svc := ⟨false, 19⟩ })
      (scanWork { anyScan with lines := ⟨true, true, false, true⟩ }
        (ticking { restRail .part with inputs.svc := ⟨false, 19⟩ })) = true := by decide +kernel
theorem meets_RailEventsAreScanCompletions_travel :
    stalledByTravel (ticking { moveRail .engaging .silent with travel := 1199 })
      (scanWork anyScan (ticking { moveRail .engaging .silent with travel := 1199 })) = true := by decide +kernel
theorem meets_RailEventsAreScanCompletions_hold :
    endedByHold (ticking { moveRail .paused .silent with pause := 2999, settle := 9 })
      (scanWork anyScan (ticking { moveRail .paused .silent with pause := 2999, settle := 9 })) = true := by
  decide +kernel
theorem meets_RailEventsAreScanCompletions_dwell :
    dwellEnded (ticking { moveRail .reversing .acoustic with dwell := 59 })
      (scanWork anyScan (ticking { moveRail .reversing .acoustic with dwell := 59 })) = true := by decide +kernel

theorem meets_RailTickCounts :
    (moveRail .engaging .silent).state.moving = true ∧ (inputsAt true false).atTarget .silent = true
      ∧ (restRail .part).state ≠ .stalled ∧ (inputsAt false false).derived = .stalled
      ∧ (moveRail .engaging .silent).state.driving = true
      ∧ (limitsOf (railed (moveRail .engaging .silent))).travel ≤ 1199 + 1
      ∧ 1198 + 1 < (limitsOf (railed (moveRail .engaging .silent))).travel
      ∧ (limitsOf (railed (moveRail .paused .silent))).hold ≤ 2999 + 1
      ∧ 2998 + 1 < (limitsOf (railed (moveRail .paused .silent))).hold
      ∧ (moveRail .paused .silent).inputs.derived ≠ .stalled
      ∧ (limitsOf (railed (moveRail .reversing .silent))).dwell ≤ 59 + 1
      ∧ 58 + 1 < (limitsOf (railed (moveRail .reversing .silent))).dwell
      ∧ (restRail .engaged).state.resting = true ∧ (inputsAt true true).derived = .part
      ∧ (inputsAt true true).derived ≠ .stalled ∧ (inputsAt false true).derived = .retracted
      ∧ (restRail .part).inputs.derived = (restRail .part).state := by decide

/-- R71, R72, R68, R73 at their bounds: pause, resume, the filters and the lever. -/
theorem meets_RailTickCounts_steps :
    (quietStep State.reset.keys false (railed { moveRail .engaging .silent with settle := 2 })).rail.state = .paused
      ∧ (quietStep State.reset.keys false (railed { moveRail .engaging .silent with settle := 1 })).rail.state = .engaging
      ∧ (quietStep State.reset.keys false (railed { moveRail .paused .acoustic with settle := 1 })).rail.state = .releasing
      ∧ (quietStep State.reset.keys true (railed { moveRail .paused .silent with settle := 1 })).rail.state = .paused
      ∧ (moveRail .reversing .silent).state.driving = false ∧ (moveRail .reversing .silent).state ≠ .paused
      ∧ (Filtered.mk false 8).sample 10 true = ⟨false, 9⟩ ∧ (Filtered.mk false 9).sample 10 true = ⟨true, 0⟩
      ∧ (Filtered.mk true 9).sample 10 true = ⟨true, 0⟩
      ∧ (sampleStep ⟨true, true, true, false⟩ (railed { restRail .part with inputs.lever := ⟨false, 19⟩ })).rail.source = .lever
      ∧ (sampleStep ⟨true, true, true, false⟩ (railed { restRail .part with inputs.lever := ⟨false, 18⟩ })).rail.source = .host
      ∧ (request .silent .host (railed { restRail .part with perm := .held })).2 ≠ .accepted
      ∧ (request .silent .host (railed (restRail .part))).2 = .accepted
      ∧ (8 : Word).toNat % 8 = 0 ∧ (7 : Word).toNat % 8 ≠ 0 := by decide +kernel

theorem meets_MoveOrdersAct_start :
    (restRail .retracted).state.resting = true ∧ (restRail .retracted).perm = .free
      ∧ standsAt .retracted .silent = false ∧ standsAt .engaged .acoustic = false ∧ standsAt .part .silent = false
      ∧ (railed (restRail .retracted)).running = true := by decide

theorem meets_MoveOrdersAct :
    (railed { restRail .part with state := .stalled }).rail.state = .stalled
      ∧ standsAt .engaged .silent = true ∧ standsAt .retracted .acoustic = true
      ∧ { restRail .part with perm := .held }.perm ≠ .free
      ∧ (moveRail .engaging .silent).state.driving = true ∧ (moveRail .engaging .silent).target = .silent
      ∧ (moveRail .releasing .acoustic).target ≠ .silent
      ∧ (moveRail .paused .silent).target = .silent ∧ (moveRail .paused .acoustic).target ≠ .silent ∧ (moveRail .reversing .silent).state = .reversing := by decide

theorem meets_PermissionAndFaultOrders :
    { restRail .part with perm := .pinned, inputs.svc := ⟨true, 0⟩ }.inputs.svc.level = true
      ∧ { restRail .part with perm := .pinned }.inputs.svc.level = false
      ∧ (moveRail .engaging .silent).state.moving = true ∧ (moveRail .engaging .silent).perm = .free
      ∧ (moveRail .engaging .silent).inputs.derived ≠ .stalled
      ∧ { moveRail .engaging .silent with inputs := inputsAt false false }.inputs.derived = .stalled
      ∧ (restRail .part).state ≠ .stalled
      ∧ { restRail .stalled with inputs := inputsAt false false }.inputs.derived = .stalled
      ∧ (restRail .stalled).inputs.derived ≠ .stalled := by decide

/-- A running part with a SCORE region of this length. -/
def scored (len : Nat) : State :=
  { run with ord := { OrderUnit.reset with regions := ⟨⟨0, 0⟩, ⟨0x8000, len⟩, ⟨0, 0⟩⟩ } }

/-- A reader with a store read in flight. -/
def reading : Reader := { Reader.reset with read := some ⟨0, .header, 0, 0⟩ }

/-- A reader that waits for ORD's read of the score descriptor, with this read in flight. -/
def awaiting (r : Option ScoreRead) : Reader := { Reader.reset with state := .reading, read := r }

theorem meets_StartPlaysFromTheBeginning :
    (scored 8).running = true ∧ (scored 8).inReset = false ∧ (scored 8).play.state ≠ .playing
      ∧ awaitsFirst { scored 8 with scr := awaiting none } = true
      ∧ (awaiting (some ⟨0, .header, 0, 0⟩)).read ≠ none ∧ (awaiting none).header = none ∧ (awaiting none).queue = []
      ∧ (areaWord (scored 8) offFirstBlock).toNat / 8 * 8 + 8 ≤ (scored 8).ord.regions.score.len
      ∧ (scored 7).ord.regions.score.len < (areaWord (scored 7) offFirstBlock).toNat / 8 * 8 + 8
      ∧ (1 : Word) ≠ (awaiting none).serial := by decide

theorem meets_StopPauseResumeTempoTracks_stop : (playing { Play.reset with state := .waiting }).play.state ≠ .stopped := by decide

/-- R101, R117: a playback voice in PRIMING and one in HELD, a live one, and a FADING one, at a STOP and at RUN clear. -/
theorem meets_StopPauseResumeTempoTracks_voices :
    let v : VoiceState → VoiceSource → Voice :=
      fun st src => { Voice.reset with state := st, source := src, buffer := [(1, 1)], relPending := true }
    let s := { run with voices := (((Vector.replicate 80 Voice.reset).set 0 (v .priming .playback)).set 1
      (v .held .playback)).set 2 (v .sounding .live), playback := { Context.reset with engaged := true } }
    let t := stopPlayback s
    t.voices[(0 : Fin 80)] = { v .free .playback with buffer := [], relPending := false }
      ∧ t.voices[(1 : Fin 80)] = { v .fading .playback with relPending := false } ∧ t.voices[(2 : Fin 80)] = v .sounding .live
      ∧ t.voices[(3 : Fin 80)] = Voice.reset
      ∧ (runClear s).voices[(1 : Fin 80)] = { v .fading .playback with relPending := false }
      ∧ (runClear s).voices[(2 : Fin 80)] = { v .fading .live with relPending := false } := by decide +kernel

theorem meets_StopPauseResumeTempoTracks :
    (playing { Play.reset with state := .playing }).play.state = .playing
      ∧ (playing { Play.reset with state := .stalled }).play.state = .stalled
      ∧ (playing { Play.reset with state := .waiting }).play.state = .waiting
      ∧ (playing { Play.reset with state := .paused }).play.state = .paused
      ∧ (playing { Play.reset with state := .seeking }).play.state ≠ .playing
      ∧ (full.voices[(5 : Fin 80)]).source = .playback ∧ (full.voices[(5 : Fin 80)]).state = .held := by decide +kernel

theorem meets_StopPauseResumeTempoTracks_words :
    (∀ i : Fin 4, (#v[TrackMode.sound, .guide, .mute, .sound][i]).code = argByte 0x0002_0100 i.val)
      ∧ (∀ m : TrackMode, m.code ≠ argByte 0x0300_0000 (3 : Fin 4).val) := by
  refine ⟨by decide, ?_⟩
  intro m
  cases m <;> decide

/-- A part whose map gives key 60 two layers, with a rail that lets live starts through, or not. -/
def mapped (st : RailState) (voices : Vector Voice 80) : State :=
  { railed (restRail st) with
      mapCopy := (Vector.replicate 88 []).set 60 [⟨64, 0, 1000, 128⟩, ⟨127, 4000, 1000, 128⟩]
      streams := ⟨0, 8000⟩, voices := voices }

/-- Every voice in this state, with its index as envelope, of this source and key 60. -/
def allIn (st : VoiceState) (src : VoiceSource) (key : Fin 88) : Vector Voice 80 :=
  Vector.ofFn fun i => { Voice.reset with state := st, source := src, key := key, env := 100 + i.val }

/-- One voice of key 60 among free ones. -/
def oneIn (st : VoiceState) : Vector Voice 80 :=
  (Vector.replicate 80 Voice.reset).set 5 { Voice.reset with state := st, key := 60, layer := ⟨64, 0, 1000, 128⟩ }

theorem meets_StartRequestsAndReleases_gate :
    (mapped .part (oneIn .free)).rail.state ≠ .engaged ∧ (mapped .part (oneIn .free)).settings.monitor = false
      ∧ (mapped .engaged (oneIn .free)).rail.state = .engaged
      ∧ chooseLayer ((mapped .engaged (oneIn .free)).mapCopy[(60 : Fin 88)]) 64 = some ⟨64, 0, 1000, 128⟩
      ∧ chooseLayer ((mapped .engaged (oneIn .free)).mapCopy[(60 : Fin 88)]) 65 = some ⟨127, 4000, 1000, 128⟩
      ∧ chooseLayer ((mapped .engaged (oneIn .free)).mapCopy[(61 : Fin 88)]) 1 = none := by decide +kernel

theorem meets_StartRequestsAndReleases_voice : voicesSound (oneIn .priming) := by
  have h : ∀ i : Fin 80, ((oneIn .priming)[i]).state.active = true → i = 5 := by decide +kernel
  intro i j hi hj _ _
  rw [h i hi, h j hj]

theorem meets_StartRequestsAndReleases_take :
    allocate .live (mapped .engaged (oneIn .fading)) = .take 0
      ∧ allocate .live (mapped .engaged (allIn .held .live 3)) = .steal 0
      ∧ allocate .playback (mapped .part (allIn .fading .live 3)) = .nothing
      ∧ allocate .playback (mapped .part (allIn .sounding .playback 3)) = .steal 0 := by decide +kernel

theorem meets_StartRequestsAndReleases_fetch :
    (mapped .engaged (oneIn .sounding)).burst = none ∧ ((oneIn .sounding)[(5 : Fin 80)]).wants = true
      ∧ burstOffset (mapped .engaged (oneIn .sounding)) 5 + 4 * 64 ≤ (mapped .engaged (oneIn .sounding)).streams.len
      ∧ (fetchNext (mapped .engaged (oneIn .sounding))).burst ≠ none := by decide +kernel

/-- R111: the burst of a voice whose layer reaches past SAMPLES is not made, and its voice is FREE. -/
theorem meets_StartRequestsAndReleases_outside :
    let s := { mapped .engaged (oneIn .sounding) with streams := ⟨0, 255⟩ }
    s.burst = none ∧ ((oneIn .sounding)[(5 : Fin 80)]).wants = true ∧ s.streams.len < burstOffset s 5 + 4 * 64
      ∧ ((fetchNext s).voices[(5 : Fin 80)]).state = .free ∧ noticed .regionFault (fetchNext s) = true
      ∧ (fetchNext s).fetchOrder = [] := by decide +kernel

theorem meets_SeekStartsAndLoopIsArmed_seek : argByte 0x100 0 = 0 ∧ argByte 0x1FF 0 ≠ 0 ∧ argByte 1 0 ≠ 0 := by decide

theorem meets_SeekStartsAndLoopIsArmed_loop :
    argByte 0x0000_0403 2 = 0 ∧ argByte 0x00FF_0403 2 ≠ 0 ∧ argByte 0x0001_0303 0 = argByte 0x0001_0303 1
      ∧ argByte 0x0001_0300 0 = 0 ∧ argByte 0x0001_0003 1 = 0 ∧ argByte 0x0002_0403 0 = 3 ∧ argByte 0x0002_0403 1 = 4
      ∧ (Anchor.mk 3 0x400 5 96000 700 0 0).markId = argByte 0x0002_0403 0
      ∧ (Anchor.mk 3 0x400 5 96000 700 0 0).markId ≠ argByte 0x0002_0304 0 := by decide

/-- A NOTE of key 64 with this due, on track 1. -/
def guideEntry (due : Nat) : QueueEntry := ⟨.note, 1, 64, 80, due, 0x400, 0, false⟩

/-- A part whose track 1 is GUIDE, in this playback state at position 100, with these prompts. -/
def guiding (st : PlayState) (ps : List Prompt) : State :=
  playing { Play.reset with state := st, position := 100, tracks := #v[.sound, .guide, .mute, .sound], prompts := ps }

/-- Sixteen prompts, of keys 0 to 15. -/
def sixteen : List Prompt := (List.finRange 16).map fun i => prompt ⟨i.val, by omega⟩ 200 false

theorem meets_GuideAdmitsAndMatches :
    (guideEntry 7300).kind = .note ∧ (guideEntry 7300).dealt = false ∧ (guiding .playing []).play.tracks[(1 : Fin 4)] = .guide
      ∧ 100 + (guiding .playing []).settings.guideLead * 48 = 7300
      ∧ (admissionPass 7300 [guideEntry 7300] (guiding .playing [])).2.play.prompts = [prompt 64 7300 false]
      ∧ (admissionPass 7299 [guideEntry 7300] (guiding .playing [])).2.play.prompts = []
      ∧ sixteen.length = 16 ∧ (∀ p ∈ sixteen, p.key ≠ 64)
      ∧ (admissionPass 7300 [guideEntry 150] (guiding .playing sixteen)).2.play.prompts = sixteen
      ∧ (admissionPass 7300 [guideEntry 150] (guiding .playing [prompt 64 120 false])).1 = [{ guideEntry 150 with dealt := true }]
      ∧ (admissionPass 7300 [guideEntry 150] (guiding .playing [prompt 64 120 true])).1 = [guideEntry 150]
      ∧ (guiding .waiting []).play.state = .waiting
      ∧ (guideStrike 64 1 (guiding .waiting [prompt 64 100 false])).play.state = .playing
      ∧ (guideStrike 64 1 (guiding .waiting [prompt 64 100 false, prompt 65 100 false])).play.state = .waiting
      ∧ (guideStrike 64 1 (guiding .waiting [prompt 64 101 false])).play.prompts = [prompt 64 101 true]
      ∧ (guideStrike 64 0 (guiding .waiting [prompt 64 100 false])).play.state = .waiting := by decide +kernel

theorem meets_SkipMarksPromptsMet :
    run.play.prompts = [] ∧ full.play.prompts ≠ []
      ∧ (playing { Play.reset with state := .waiting, position := 100, prompts := [prompt 64 100 false] }).play.state
          = .waiting ∧ { Journal.reset with taking := true }.taking = true := by decide

theorem meets_ClockAdvances :
    run.play.state ≠ .playing ∧ full.play.state = .playing ∧ full.scr.queue = [] ∧ full.scr.state ≠ .waiting
      ∧ { full with scr := { Reader.reset with state := .waiting } }.scr.state = .waiting
      ∧ full.scr.state ≠ .done ∧ (∀ i : Fin 4, full.play.tracks[i] ≠ .guide) := by decide

/-- R158: the clock reaches a prompt at 120 and waits there; a set in due order. -/
theorem meets_ClockAdvances_prompts :
    [prompt 60 100 true, prompt 64 120 false, prompt 65 120 false].Pairwise (fun p q => p.due ≤ q.due)
      ∧ (promptRule 164 (guiding .playing [prompt 60 100 true, prompt 64 120 false])).play.position = 120
      ∧ (promptRule 164 (guiding .playing [prompt 60 100 true, prompt 64 120 false])).play.prompts = [prompt 64 120 false]
      ∧ (promptRule 164 (guiding .playing [prompt 64 120 false])).play.state = .waiting
      ∧ (promptRule 164 (guiding .playing [prompt 64 165 false])).play.state = .playing
      ∧ (promptRule 164 (guiding .playing [prompt 64 165 false])).play.position = 164 := by decide +kernel

/-- The end mark of the loop of the walk-through in chapter 9. -/
def endMark : QueueEntry := ⟨.mark, 0, 4, 0, 192000, 0x800, 2, false⟩

theorem meets_EndMarkPassesThrough :
    endMark.kind = .mark ∧ full.play.sound ∧ endMark.id = full.play.loop.endId ∧ full.play.loop.armed = true
      ∧ { full.play.loop with count := 0 }.count = 0 ∧ run.play.loop.armed = false :=
  ⟨rfl, meets_PromptSetStaysSound.1, rfl, rfl, rfl, rfl⟩

/-- The walk-through of chapter 9: the part before its first jump, with the anchor of MARK 3 or none. -/
def looping (anchor : Option Anchor) : State :=
  playing { Play.reset with state := .playing, position := 192000, loop := ⟨3, 4, 2, true⟩, anchor := anchor }

theorem meets_EndMarkPassesThrough_jump :
    (dispatchEvent endMark (looping (some ⟨3, 0x400, 5, 96000, 700, 0, 0⟩))).play.loop.count = 1
      ∧ (looping (some ⟨3, 0x400, 5, 96000, 700, 0, 0⟩)).play.anchor = some ⟨3, 0x400, 5, 96000, 700, 0, 0⟩
      ∧ (jumpTo ⟨3, 0x400, 5, 96000, 700, 0, 0⟩ (scored 0x800)).play.position = 96000
      ∧ (jumpTo ⟨3, 0x400, 5, 96000, 700, 0, 0⟩ (scored 0x800)).scr.index = 6
      ∧ (looping none).play.anchor = none ∧ (dispatchEvent endMark (looping none)).play.state = .seeking
      ∧ (⟨.mark, 0, 3, 0, 96000, 0x400, 5, false⟩ : QueueEntry).id = (looping none).play.loop.startId
      ∧ run.play.loop.armed = false ∧ (255 : Nat) = 255 := by decide +kernel

/-- R148: a mark beside the loop's two. -/
theorem meets_EndMarkPassesThrough_other :
    { endMark with id := 5 }.id ≠ (looping none).play.loop.startId ∧ { endMark with id := 5 }.id ≠ (looping none).play.loop.endId
      ∧ dispatchEvent { endMark with id := 5 } (looping none) = looping none := ⟨by decide, by decide, rfl⟩

theorem meets_EndMarkPassesThrough_sound : (looping none).play.sound := by
  refine ⟨by decide, by decide, ?_, by decide, by decide⟩
  rintro (h | h | h) <;> cases h

theorem meets_DispatchPlaysEvents :
    let note := fun (track : Fin 4) (dealt : Bool) => { guideEntry 100 with track := track, dealt := dealt }
    (guiding .playing []).play.tracks[(0 : Fin 4)] = .sound ∧ (guiding .playing []).play.tracks[(2 : Fin 4)] = .mute
      ∧ (dispatchEvent (note 0 false) (guiding .playing [])).play.held[(64 : Fin 88)] = true
      ∧ (dispatchEvent (note 2 false) (guiding .playing [])).play.held[(64 : Fin 88)] = false
      ∧ (dispatchEvent (note 1 true) (guiding .playing [])).play.prompts = []
      ∧ (dispatchEvent (note 1 false) (guiding .playing [])).play.state = .waiting
      ∧ (dispatchEvent (note 1 false) (guiding .playing [])).play.prompts = [prompt 64 100 false]
      ∧ (dispatchEvent (note 1 false) (guiding .waiting [])).play.state = .waiting
      ∧ (dispatchEvent (note 1 false) (guiding .playing sixteen)).play.prompts = sixteen
      ∧ (dispatchEvent ⟨.pedal, 0, 1, 500, 100, 0, 0, false⟩ run).playback.engaged = true
      ∧ (dispatchEvent ⟨.pedal, 0, 1, 499, 100, 0, 0, false⟩ run).playback.engaged = false
      ∧ (dispatchEvent ⟨.pedal, 0, 1, 350, 100, 0, 0, false⟩
          { run with playback := { Context.reset with engaged := true } }).playback.engaged = true
      ∧ (dispatchEvent ⟨.pedal, 0, 1, 349, 100, 0, 0, false⟩
          { run with playback := { Context.reset with engaged := true } }).playback.engaged = false
      ∧ (dispatchEvent ⟨.fin, 0, 0, 0, 100, 0, 0, false⟩ (guiding .playing [])).play.state = .ended
      ∧ (⟨.release, 0, 64, 0, 100, 0, 0, false⟩ : QueueEntry).id = (64 : Fin 88).val := by decide +kernel

theorem meets_DispatchPlaysEvents_order :
    let s := fun due : Nat => { guiding .playing [] with scr.queue := [guideEntry due] }
    (guideEntry 100).due ≤ (s 100).play.position ∧ (s 101).play.position < (guideEntry 101).due
      ∧ (dispatchMany 1 (s 101)).2.scr.queue = [guideEntry 101]
      ∧ (resumeReader (dispatchEvent (guideEntry 100) { s 100 with scr.queue := [] })).play.state ≠ (s 100).play.state
      ∧ { Reader.reset with state := .full }.state = .full ∧ (guiding .paused []).play.state ≠ .playing := by decide +kernel

/-- R146: with no dispatch before the sound's work those of the block follow it; in WAITING, too, and with every one before it. -/
theorem meets_DispatchPlaysEvents_block :
    let s := fun st : PlayState => { guiding st [] with scr.queue := [guideEntry 100] }
    (dispatchMany 0 (clockStep (reread (s .waiting)))).1 = true ∧ (dispatchMany 2 (clockStep (reread (s .waiting)))).1 = false
      ∧ (audioWork 0 (s .waiting)).play.prompts = [prompt 64 100 false] ∧ (audioWork 2 (s .waiting)).scr.queue = []
      ∧ (audioWork 1 (s .playing)).play.state = .waiting ∧ (s .waiting).inReset = false := by decide +kernel

theorem meets_OrdersAreTaken_refused :
    State.reset.running = false ∧ State.reset.inReset = false ∧ slotAndSeq (.unknownOrder .rail 0 7) = some (.rail, 7)
      ∧ slotAndSeq (.seek 12 3) = some (.play, 12) ∧ Slot.knows .journal 3 = false ∧ Slot.knows .journal 0 = false
      ∧ run.running = true := by decide

theorem meets_OrdersAreTaken (slot : Slot) : readsWatched (.order slot) (atOrd (.trigger (.order slot))) = true := by
  cases slot <;> decide

theorem meets_JournalOrdersAreHanded :
    readsWatched .readMark (atOrd (.trigger .readMark)) = true ∧ (atOrd (.trigger .readMark)).running = true
      ∧ readsWatched .readMark { atOrd (.trigger .readMark) with running := false } = true := by decide

/-- A JWR of 256 slots with these marks and this gap count. -/
def journal (w r : Word) (gap : Nat) : Journal := { Journal.reset with capacity := 256, w := w, r := r, gap := gap }

theorem meets_JournalTakesItems :
    (journal 255 0 0).fill < (journal 255 0 0).capacity ∧ (journal 256 0 0).capacity ≤ (journal 256 0 0).fill
      ∧ (journal 255 0 9).gap ≠ 0 ∧ ((journal 5 0 0).w - 5).toNat ≤ 256 ∧ ((journal 5 0 0).w - 0xFFFF_FF05).toNat ≤ 256
      ∧ 256 < ((journal 5 0 0).w - 0xFFFF_FF04).toNat ∧ 256 < ((journal 5 0 0).w - 6).toNat := by decide

theorem meets_JournalWritesEnd_record :
    (atJwr (.writing (recGap 3 9) true none none)).busy = some .jwr
      ∧ Memory.wf (atJwr (.writing (recGap 3 9) true none none)).store = true := by decide

theorem meets_JournalWritesEnd_mark :
    (atJwr (.marking none (some 4))).busy = some .jwr ∧ (atJwr (.restartWrite 4)).jwr.op = .restartWrite 4
      ∧ (atJwr (.marking (some (recMark 1 2, some 6)) none)).jwr.fill < 256
      ∧ (journal 256 0 0).capacity ≤ (journal 256 0 0).fill := by decide

theorem meets_NoticeAndSelectorWords :
    readsWatched .mask (atOrd (.trigger .mask)) = true
      ∧ readsWatched .acknowledge (atOrd (.trigger .acknowledge)) = true
      ∧ readsWatched .selector (atOrd (.trigger .selector)) = true
      ∧ (atOrd (.trigger .selector)).ord.adoption.phase = .idle
      ∧ { Adoption.reset with phase := .page }.phase ≠ .idle
      ∧ 0x400#16 &&& Notice.audioClip.word ≠ 0 ∧ 0x400#16 &&& Notice.keyFault.word = 0 := by decide

theorem meets_OrdWritesEnd :
    ordHead (atOrd (.answer .play 9 .accepted)) = some (.answer .play 9 .accepted)
      ∧ ordHead (atOrd (.pageStatus ⟨.refused, true, 41, .marks, 3, 0⟩)) = some (.pageStatus ⟨.refused, true, 41, .marks, 3, 0⟩)
      ∧ ordHead (atOrd (.calEntry 95 CalEntry.reset)) = some (.calEntry 95 CalEntry.reset)
      ∧ Memory.wf (atOrd .summary).store = true := by decide

/-- The start of a page with these marks and pedal bounds: signature, version, and the fields to offset 0x88. -/
def pageOf (u d p l lo hi on off : Nat) : List Byte :=
  toBytes 4 pageSignature ++ toBytes 4 1 ++ toBytes 2 u ++ toBytes 2 d ++ toBytes 2 p ++ toBytes 2 l
    ++ toBytes 112 0 ++ toBytes 2 lo ++ toBytes 2 hi ++ toBytes 2 on ++ toBytes 2 off

/-- R8, R195: the bounds of every test, and the two worked cases of R195. -/
theorem meets_PageIsChecked_tests :
    pageProblem (toBytes 4 pageSignature ++ toBytes 4 2) = some (.signature, 2)
      ∧ pageProblem (pageOf 15 260 600 880 200 700 500 350) = some (.marks, 3)
      ∧ pageProblem (pageOf 16 47 600 880 200 700 500 350) = some (.marks, 4)
      ∧ pageProblem (pageOf 16 48 79 880 200 700 500 350) = some (.marks, 5)
      ∧ pageProblem (pageOf 16 48 80 111 200 700 500 350) = some (.marks, 6)
      ∧ pageProblem (pageOf 16 48 80 1001 200 700 500 350) = some (.marks, 6)
      ∧ pageProblem (pageOf 16 48 80 112 400 400 500 350) = some (.damper, 14)
      ∧ pageProblem (pageOf 16 48 80 1000 400 401 500 500) = some (.sostenuto, 16)
      ∧ pageProblem (pageOf 16 48 80 1000 400 401 501 500) = none
      ∧ pageProblem (pageOf 10 260 600 1010 200 700 500 350) = some (.marks, 3) := by decide +kernel

/-- A page that passes every test. -/
def goodPage : List Byte := pageOf 120 260 600 880 200 700 500 350

theorem meets_PageIsChecked :
    readsPageEnd (atOrd .pageTail) = true ∧ pageProblem (atOrd .pageTail).ord.adoption.bytes = some (.signature, 1)
      ∧ pageProblem goodPage = none ∧ (atOrd .pageTail).start ≠ .adopting := by decide +kernel

/-- A part whose sample map has one layer for its lowest key. -/
def oneLayerMap : State :=
  { State.reset with
      store := [(0x8000, 1), (0x8004, 100), (0x8005, 200), (0x8008, 16), (0x800C, 5), (0x800F, 0xFF)],
      ord.regions.samples := ⟨0x8000, 0x2000⟩ }

/-- The words of a key entry, read one after another. -/
def mapWords : Nat → State
  | 0 => oneLayerMap
  | n + 1 => takeMapWord n (mapWords n)

theorem test_map_entry_of_thirteen_words :
    (mapWords 12).ord.adoption.map = [] ∧ (mapWords 13).ord.adoption.map = [[⟨100, 16, 5, 200⟩]]
      ∧ (mapWords 13).ord.adoption.entry = [] ∧ (mapWords 13).ord.adoption.dropped = 0 := by decide +kernel

theorem meets_AdoptionTakesEffect :
    readsAdoptionEnd { atOrd .startMarks with start := .adopting } = true
      ∧ readsAdoptionEnd { atOrd (.mapWord 1143) with start := .adopting } = false
      ∧ readsAdoptionEnd (atOrd (.mapWord 1143)) = true ∧ ordHead (atOrd (.mapWord 1143)) = some (.mapWord 1143)
      ∧ readsAdoptionEnd (atOrd (.tableEntry 95)) = true ∧ (atOrd (.mapWord 1143)).start ≠ .adopting
      ∧ { atOrd .startMarks with start := .adopting }.start = .adopting
      ∧ { atOrd .startMarks with start := .adopting }.stopHeld = false := by decide

/-- R53, R60: the marks of a journal that is just full go on, and a fill above the capacity restarts; R65: the first views. -/
theorem meets_AdoptionTakesEffect_journal :
    let s := fun w : Byte =>
      { atOrd .startMarks with
          start := .adopting, running := false, store := [(0x85, w)], mixer.clipCount := 3, mixer.clip := true
          voices := Vector.replicate 80 { Voice.reset with state := .fading, buffer := [(1, 1)], pending := true }
          fetchOrder := [4]
          ord := { OrderUnit.reset with list := [.startMarks], regions := ⟨⟨0, 0⟩, ⟨0, 0⟩, ⟨0x8000, 0x800⟩⟩ } }
    let u := fun w => adoptionReadDone resetLines {} (s w)
    (s 1).ord.regions.journal.len / 8 = 256 ∧ (areaWord (s 1) offWriteMark - areaWord (s 1) offReadMark).toNat = 256
      ∧ (u 1).jwr.w = 256 ∧ (u 1).jwr.op = .idle ∧ (u 1).jwr.capacity = 256 ∧ (u 1).jwr.threshold = 192
      ∧ (u 2).jwr.w = 0 ∧ (u 2).jwr.op = .startWrite ∧ .threshold 192 ∈ (u 2).ord.list
      ∧ (u 1).mixer.clipCount = 0 ∧ (u 1).mixer.clip = true ∧ (u 1).fetchOrder = []
      ∧ ((u 1).voices[(4 : Fin 80)]).buffer = [] ∧ ((u 1).voices[(4 : Fin 80)]).pending = false
      ∧ .keyView 0x9DC [0, 0, 0, 0] true ∈ (u 1).ord.list ∧ .status 0x3FC [0, 0, 0, 0] true ∈ (u 1).ord.list := by decide +kernel

/-- R92: a rail at rest that stays, one moved while stopped, both switches closed, and one in STALLED; R179, R182: what follows an adoption. -/
theorem meets_AdoptionTakesEffect_rail :
    let both := { resetLines with swHome := false, swStop := false }
    let home := { resetLines with swHome := false, swStop := true }
    (railAtStart home { restRail .retracted with stop := .arrived }).stop = .arrived
      ∧ (railAtStart home { restRail .engaged with stop := .arrived }).stop = .drift
      ∧ (railAtStart both (restRail .engaged)).fault = .switch
      ∧ (railAtStart home { restRail .stalled with fault := .travel }).state = .stalled
      ∧ { Adoption.reset with next := true }.next = true
      ∧ { atOrd (.tableEntry 95) with start := .waitAdoption }.start = .waitAdoption := by decide +kernel

/-- R42: an entry of the table as a load takes it; R23, R30: the raw values and calibrations of a start sequence. -/
theorem meets_AdoptionTakesEffect_tables :
    (takeTableEntry 0 (atOrd (.tableEntry 0))).ord.adoption.table = [CalEntry.reset]
      ∧ (takeTableEntry 0 { atOrd (.tableEntry 0) with cap := { Capture.reset with finishing := true } }).ord.adoption.stale = true
      ∧ (atOrd .startMarks).ord.adoption.stale = false ∧ (atOrd .startMarks).ord.adoption.table[(0 : Nat)]? = none
      ∧ (CalEntry.mk 0 256 false false).rz + 256 ≤ (CalEntry.mk 0 256 false false).bt
      ∧ CalEntry.reset.bt < CalEntry.reset.rz + 256 := by decide +kernel

/-- A running part at the last read of an adoption whose table makes every channel invalid, with key 60 sounding. -/
def adopting : State :=
  { playingKeys with
      busy := some .ord
      ord := { OrderUnit.reset with
        list := [.tableEntry 95]
        adoption := { Adoption.reset with phase := .tables, table := List.replicate 95 CalEntry.reset } } }

theorem meets_AdoptionMeetsTheRun :
    adopting.inReset = false ∧ readsAdoptionEnd adopting = true ∧ adopting.start ≠ .adopting ∧ adopting.running = true
      ∧ (adopting.keys[(60 : Fin 88)]).state = .sounding ∧ (adopting.cal[keyChannel 60]).valid = true
      ∧ (adopting.pedals[(1 : Fin 3)]).mode = .active ∧ (adopting.cal[pedalChannel 1]).valid = true
      ∧ adopting.live.sound
      ∧ (let u := adoptionReadDone resetLines {} adopting
         u.keys[(60 : Fin 88)] = ⟨.disabled, ⟨0, 0, none, 0, false⟩, none, none, .calibration⟩
         ∧ (u.pedals[(1 : Fin 3)]).mode = .disabled ∧ u.jwr.hand = [.record (recKeyOff 60 false 0) none]
         ∧ noticed .keyFault u = true) :=
  ⟨by decide +kernel, by decide +kernel, by decide +kernel, by decide +kernel, by decide +kernel, by decide +kernel,
    by decide +kernel, by decide +kernel, .inr rfl, by decide +kernel⟩

/-- R108: the reserve trims the playback voices above the new cap, the quietest RELEASING one first. -/
theorem meets_AdoptionMeetsTheRun_trim :
    let s := { mapped .part (allIn .releasing .playback 3) with settings := { Settings.reset with reserve := 2 } }
    playbackCap s = 78 ∧ playbackCount s = 80 ∧ trimChoice s = some 0
      ∧ ((trimReserve 80 s).voices[(1 : Fin 80)]).state = .fading ∧ playbackCount (trimReserve 80 s) = 78
      ∧ trimChoice (mapped .part (oneIn .sounding)) = none := by decide +kernel

/-- R95: a layer at the bounds of each test, and the fifth layer of a count of 5. -/
theorem meets_SampleMapIsLoaded :
    keepsLayer 400 [] ⟨1, 0, 100, 128⟩ = true ∧ keepsLayer 400 [] ⟨1, 4, 100, 128⟩ = false
      ∧ keepsLayer 400 [] ⟨1, 2, 9, 128⟩ = false ∧ keepsLayer 400 [] ⟨1, 0, 0, 128⟩ = false
      ∧ keepsLayer 400 [⟨9, 0, 1, 0⟩] ⟨9, 0, 1, 0⟩ = false ∧ keepsLayer 400 [⟨9, 0, 1, 0⟩] ⟨10, 0, 1, 0⟩ = true
      ∧ (12 : Nat) % 13 = 12 ∧ (13 : Nat) % 13 ≠ 12 ∧ keyLayers [5] 400 = ([], 4)
      ∧ Adoption.reset.mapRead = false := by decide +kernel

/-- R179: a further adoption that a triggered read has started is not started again by the selector's re-read. -/
theorem test_one_further_adoption :
    let s := { State.reset with running := true }
    let t := takeNextSelector (takeSelector 0x002B_0001 s)
    t.ord.adoption.next = false ∧ t.ord.adoption.stamp = 0x2B
      ∧ (takeNextSelector s).ord.adoption.phase = .page := by decide +kernel

/-- R142: no status copy while the reader waits for ORD's read of the first-block offset. -/
theorem test_status_waits_for_first_block :
    let s := { scored 8 with scr := awaiting none, play := { Play.reset with state := .playing } }
    copiesStatus s = false ∧ (refreshStatus 80 s).ord.statusDue = some 80 ∧ (refreshStatus 80 s).ord.list = []
      ∧ statusRefreshDue (takeFirstBlock 0 (refreshStatus 80 s)) = true
      ∧ retained (takeFirstBlock 0 s) = some 0 := by decide +kernel

/-- R64, 12.4: a key with and without a last velocity; R142: what the status block shows as retained. -/
theorem meets_CopiesShowTheRecords :
    { keyAt .idle 0 with lastVelocity := some 67 }.lastVelocity = some 67 ∧ { keyAt .idle 0 with lastVelocity := none }.lastVelocity = none
      ∧ keyEntry { run with keys := Vector.replicate 88 { keyAt .sounding 1023 with lastVelocity := some 67 } } 60
          = [4, 0, 0xFF, 3, 67, 0, 0, 0]
      ∧ retained run = none ∧ retained { run with play := { run.play with state := .paused }, scr.block := some 8 } = some 8
      ∧ ((statusBody run).drop 0x50).take 4 = [0xFF, 0xFF, 0xFF, 0xFF] := by decide +kernel

theorem meets_RefreshesTakeCopies_waiting :
    (awaiting none).state = .reading ∧ (awaiting none).block = none
      ∧ rowlessHead { scored 8 with scr := awaiting none } = none ∧ Reader.reset.state ≠ .reading := by decide

theorem meets_RefreshesTakeCopies :
    { OrderUnit.reset with viewDue := some 80 }.viewDue = some 80 ∧ OrderUnit.reset.viewWriting = false
      ∧ { OrderUnit.reset with statusTick := some 80 }.statusTick = some 80
      ∧ { OrderUnit.reset with statusDue := some 81 }.statusTick = none ∧ OrderUnit.reset.statusWriting = false := by
  decide

/-- R65, R66: the scan of count 80 calls for both refreshes, with or without the copies before its evaluations, and those of 79 and 81 for none. -/
theorem meets_RefreshesTakeCopies_scan :
    let s := fun n : Word => { run with scanCount := n }
    let first := scanWith { viewFirst := true, statusFirst := true }
    (scanWork anyScan (s 79)).ord.viewDue = some 80 ∧ (scanWork anyScan (s 79)).ord.statusTick = some 80
      ∧ (scanWork anyScan (s 78)).ord.viewDue = none ∧ (scanWork anyScan (s 80)).ord.statusTick = none
      ∧ (scanWork first (s 79)).ord.viewDue = none ∧ (scanWork first (s 79)).ord.viewWriting = true
      ∧ .status 0x3FC [80, 0, 0, 0] true ∈ (scanWork first (s 79)).ord.list ∧ (s 79).running = true
      ∧ (s 79).ord.statusWriting = false ∧ (s 79).scr.state ≠ .reading := by decide +kernel

/-- R186: a status copy taken before the scan completion shows neither its count nor its settle countdown; one taken after it shows both. -/
theorem test_early_copy_shows_nothing_of_the_scan :
    let s := { railed { restRail .part with settle := 5 } with scanCount := 79 }
    let l := (scanWork (scanWith { statusFirst := true }) s).ord.list
    let late := (takeStatus (scanWork anyScan s)).ord.list
    .status 0x284 [79, 0, 0, 0] false ∈ l ∧ .status 0x22C [0, 0, 5, 0] false ∈ l ∧ .status 0x200 [80, 0, 0, 0] false ∈ l
      ∧ .status 0x284 [80, 0, 0, 0] false ∈ late ∧ .status 0x22C [0, 0, 4, 0] false ∈ late := by decide +kernel

/-- R65, R66: a refresh that is copied takes in the older one that waits; the refresh of a START that waits keeps its count. -/
theorem test_refreshes_merge :
    let s := { run with ord := { OrderUnit.reset with viewDue := some 80, statusTick := some 80 } }
    (refreshView 160 s).ord.viewDue = none ∧ (refreshStatus 85 s).ord.statusTick = none
      ∧ (refreshStatus 80 s).ord.statusTick = some 80
      ∧ (let w := { scored 8 with scr := awaiting none, scanCount := 85, ord.statusCall := true }
         (callStatus w).ord.statusDue = some 85 ∧ (callStatus w).ord.statusCall = false) := by decide +kernel

theorem meets_LinkTransactionsOpen :
    run.inReset = false ∧ run.link.mode = .closed ∧ run.link.request = none
      ∧ { run.link with request := some ⟨0x100, none, true⟩ }.request ≠ none ∧ (List.replicate 6 (0 : Nib)).length = 6
      ∧ (byteOf 0 3).toNat ≤ 3 ∧ 3 < (byteOf 0 4).toNat ∧ ([3] : List Nib).length < 2 := by decide

/-- A link whose word waits at 0x100. -/
def waitingLink (data : Option Word) (dead : Bool) : Link :=
  { Link.reset with mode := .reading, toRead := 4, addr := 0x100, request := some ⟨0x100, data, dead⟩, waited := 64 }

theorem meets_LinkAccessesEndAndAge_word :
    { linked (waitingLink (some 7) false) with busy := some .link }.link.request = some ⟨0x100, some 7, false⟩
      ∧ (waitingLink none true).request = some ⟨0x100, none, true⟩
      ∧ min 4 (waitingLink none false).toRead = 4 ∧ min 4 3 < 4 ∧ (waitingLink none false).toWrite.length < 8 := by decide

theorem meets_LinkAccessesEndAndAge :
    (∃ x ∈ watchedAddrs run (.order .rail), x ∈ [0x24]) ∧ (∀ x ∈ watchedAddrs run .mask, x ∉ [0x24])
      ∧ (linked (waitingLink none false)).busy ≠ some .link ∧ 64 ≤ (waitingLink none false).waited
      ∧ (waitingLink none false).mode = .reading ∧ (waitingLink none false).aged = false := by decide

/-- R188: the second word of a STORE_WRITE is presented when the first is in the store, at the next address of the bank; R185: the count of a waiting word, and of none. -/
theorem meets_LinkAccessesEndAndAge_next :
    let l := { waitingLink (some 7) false with mode := .writing, bank := 1, toWrite := [0, 1, 0, 2, 0, 3, 0, 4, 5] }
    let t := linkAccessDone { linked l with busy := some .link }
    l.toWrite.length = 9 ∧ t.link.request = some ⟨0x100_0104, some 0x0403_0201, false⟩ ∧ t.link.toWrite = [5]
      ∧ (raiseLsel 0 (linked { Link.reset with mode := .register, bank := 2 })).link = { Link.reset with bank := 2 }
      ∧ (countFrame (linked l)).link.waited = 65 ∧ (countFrame { linked l with busy := some .link }).link.waited = 64
      ∧ (countFrame run).link.waited = 0 := by decide +kernel

/-- R173: an unset flag is set and the word's read queued, and a second trigger merges. -/
theorem meets_LinkAccessesEndAndAge_trigger :
    let s := linked { Link.reset with mode := .writing, written := [0x24, 0x20] }
    run.ord.triggers[(Watched.order .rail).index] = false
      ∧ (trigger (.order .rail) run).ord.triggers[(Watched.order .rail).index] = true
      ∧ (trigger (.order .rail) (trigger (.order .rail) run)).ord.list = [.trigger (.order .rail)]
      ∧ s.link.request = none ∧ (raiseLsel 0 s).ord.list = [.trigger (.order .rail)]
      ∧ (linkAccessDone { linked { waitingLink (some 7) false with deferred := [.mask] } with busy := some .link }).ord.list
          = [.trigger .mask] := by decide +kernel

theorem meets_RegistersReadAndWrite :
    ([] : List Nib).length < 2 ∧ (regWrite (List.replicate 9 0) run).link.mode = .register
      ∧ (registerNibbles 0x08 1).length = 10 ∧ State.reset.link.mode = .closed ∧ State.reset.running = false ∧ State.reset.start = .none
      ∧ BitVec.getLsbD (2 : Word) 1 = true ∧ (0x10 : Byte) ≠ 0x04 := by decide

/-- A part at a read of the start sequence, with the header and the capacity of a work area at 0. -/
def starting (a : OrdAccess) (p : StartPhase) : State :=
  { atOrd a with
      running := false, start := p
      store := [(0, 0x57), (1, 0x53), (2, 0x38), (3, 0x38), (4, 1), (0x71, 0x40), (0x75, 8), (0x81, 1)] }

/-- R191, R183, R195: the header and region table that pass, and ones that do not. -/
theorem meets_StartSequenceReads :
    rowlessHead (starting .startHeader .header) = some .startHeader
      ∧ (takeHeaderWords (starting .startHeader .header)).start = .regions
      ∧ (takeHeaderWords (atOrd .startHeader)).areaError = .signature
      ∧ rowlessHead (starting .startRegions .regions) = some .startRegions
      ∧ (takeRegions (starting .startRegions .regions)).ord.regions.journal = ⟨0x4000, 0x800⟩
      ∧ (takeRegions { starting .startRegions .regions with area := 0x4000 }).areaError = .region
      ∧ rowlessHead (starting .startMask .mask) = some .startMask
      ∧ rowlessHead (starting .startSelector .selector) = some .startSelector
      ∧ (starting .startMask .mask).ord.adoption.phase = .idle ∧ (starting .startMask .mask).pending = []
      ∧ rowlessHead (starting .nextSelector .none) = some .nextSelector
      ∧ (takeNextSelector { starting .nextSelector .none with running := true }).ord.adoption.phase = .page
      ∧ (takeNextSelector (starting .nextSelector .none)).ord.adoption.phase = .idle
      ∧ (adoptionEnded { State.reset with ord.adoption := { Adoption.reset with next := true } }).ord.list = [.nextSelector]
      ∧ (beginStart { State.reset with start := .waitJournal }).start = .header
      ∧ { State.reset with start := .waitAdoption }.start = .waitAdoption := by decide +kernel

/-- R91: a move that ends short, one with both switches closed, a rail at rest, and one in STALLED; R50: a capture is abandoned. -/
theorem meets_RunRisesAndClears_stop :
    let open' := { moveRail .engaging .silent with inputs := inputsAt true true }
    let both := inputsAt false false
    (railStop (railed open')).rail.stop = .stopped
      ∧ (railStop (railed { moveRail .paused .silent with inputs := both })).rail.fault = .switch
      ∧ noticed .railFault (railStop (railed { restRail .part with inputs := both })) = true
      ∧ (railStop (railed { restRail .stalled with stop := .travel })).rail.stop = .travel
      ∧ (railStop { railed open' with jwr := { Journal.reset with taking := true } }).jwr.hand
          = [.record (recRail .part .stopped 0) none]
      ∧ (captured .bottom 9).cap.running = some .bottom ∧ run.cap.running = none
      ∧ ((stopCapture (captured .bottom 9)).keys[(0 : Fin 88)]).state = .disabled
      ∧ (stopCapture (captured .bottom 9)).cap.lastEnd = some .abandoned := by decide +kernel

theorem meets_RunRisesAndClears :
    run.link.mode = .closed ∧ run.running = true ∧ State.reset.start = .none
      ∧ { State.reset with start := .adopting }.start ≠ .none := by decide

/-- A part whose SCORE region begins with a READY block of 3 events, and whose reader has its header read in flight. -/
def headed : State :=
  { scored 0x100 with store := [(0x8000, 0x5A), (0x8001, 3)], busy := some .scr,
                      scr := { Reader.reset with state := .reading, block := some 0, read := some ⟨0, .header, 0, 0⟩ } }

theorem meets_EngineReadsComplete :
    headed.busy = some .scr ∧ headed.scr.read = some ⟨0, .header, 0, 0⟩
      ∧ readByte headed.store (headed.ord.regions.score.base + 0) = 0x5A
      ∧ (headerAt headed.store headed.ord.regions.score.base).count = 3
      ∧ 0 + 8 + 8 * 3 ≤ headed.ord.regions.score.len ∧ headed.scr.index < 3 ∧ headed.scr.queue.length < 64
      ∧ readByte (scored 8).store ((scored 8).ord.regions.score.base + 0) ≠ 0x5A
      ∧ { headed with scr := { headed.scr with read := some ⟨0, .events 3, 0, 0⟩ } }.scr.read = some ⟨0, .events 3, 0, 0⟩
      ∧ reading.serial ≠ 1 ∧ Reader.reset.state ≠ .reading
      ∧ { run with busy := some .sfu, burst := some ⟨5, 0, 0, 64, 0⟩ }.burst = some ⟨5, 0, 0, 64, 0⟩
      ∧ (full.voices[(5 : Fin 80)]).state ≠ .free ∧ (full.voices[(5 : Fin 80)]).serial = 0
      ∧ (run.voices[(5 : Fin 80)]).state = .free := by decide +kernel

/-- A reader at this block with this header, in a SCORE region of 0x100 bytes. -/
def readerAt (b : Option Nat) (h : Option HeaderCopy) (index : Nat) (st : PlayState) : State :=
  { scored 0x100 with scr := { Reader.reset with state := .reading, block := b, header := h, index := index }
                      play := { Play.reset with state := st, seek := if st = .seeking then some ⟨3, some 9⟩ else none } }

/-- R137 to R140, R169: every way on of a reader, at the bounds. -/
theorem meets_ReaderGoesOn :
    (readerGo (readerAt (some 0xF8) none 0 .playing)).scr.read = some ⟨0, .header, 0xF8, 0⟩
      ∧ (readerGo (readerAt (some 0xF9) none 0 .playing)).play.endCause = .region
      ∧ (readerGo (readerAt (some 0) (some ⟨3, false, 0⟩) 2 .playing)).scr.read = some ⟨0, .events 1, 0, 2⟩
      ∧ (readerGo (readerAt (some 0) (some ⟨3, true, 0x40⟩) 3 .playing)).scr.read = some ⟨0, .header, 0x40, 0⟩
      ∧ (readerGo (readerAt (some 0) (some ⟨3, true, 0x100⟩) 3 .seeking)).ord.regionFault.offset = 0x100
      ∧ answered .play 9 .notFound (readerGo (readerAt (some 0) (some ⟨3, true, 0x100⟩) 3 .seeking))
      ∧ (readerGo (readerAt (some 0) (some ⟨3, false, 0⟩) 3 .playing)).scr.state = .waiting
      ∧ (readerGo (readerAt (some 0) (some ⟨3, false, 0⟩) 3 .seeking)).play.state = .stopped
      ∧ (readerGo { readerAt (some 0) none 0 .playing with scr.queue := List.replicate 64 (guideEntry 1) }).scr.state = .full
      ∧ (takeHeader 0xE8 { headed with store := [(0x80E8, 0x5A), (0x80E9, 2)] }).scr.header = some ⟨2, false, 0⟩
      ∧ (takeHeader 0xE8 { headed with store := [(0x80E8, 0x5A), (0x80E9, 3)] }).play.state = .ended
      ∧ (reread { scored 0x100 with scr := { Reader.reset with state := .waiting, block := some 8 } }).scr.read =
          some ⟨0, .header, 8, 0⟩ := by unfold answered; decide +kernel

/-- Events of each kind, at the bounds of R135's checks. -/
theorem meets_EngineReadsComplete_events :
    checkEvent ⟨0, 1, 0, 87, 0⟩ = some (.note, 87, 1) ∧ checkEvent ⟨0, 1, 0, 88, 64⟩ = none
      ∧ checkEvent ⟨0, 1, 0, 0, 128⟩ = some (.note, 0, 127) ∧ checkEvent ⟨0, 2, 0, 87, 5⟩ = some (.release, 87, 5)
      ∧ checkEvent ⟨0, 3, 0, 2, 1024⟩ = some (.pedal, 2, 1023) ∧ checkEvent ⟨0, 3, 0, 3, 0⟩ = none
      ∧ checkEvent ⟨0, 4, 0, 0, 0⟩ = none ∧ checkEvent ⟨0, 4, 0, 1, 0⟩ = some (.mark, 1, 0)
      ∧ checkEvent ⟨0, 5, 0, 9, 9⟩ = some (.fin, 0, 0) ∧ checkEvent ⟨0, 0, 0, 0, 0⟩ = none
      ∧ checkEvent ⟨0, 6, 0, 0, 0⟩ = none ∧ dueAfter 4294967295 1 = 4294967295
      ∧ (playing { Play.reset with state := .seeking, seek := some ⟨3, some 9⟩ }).play.seek = some ⟨3, some 9⟩ := by decide

/-- A voice in a state, with this envelope, this position in a recording of 1000 frames and this many frames in its buffer. -/
def voiceAt (st : VoiceState) (env pos n : Nat) : Voice :=
  { Voice.reset with
      state := st, env := env, pos := pos, layer := ⟨127, 0, 1000, 128⟩, buffer := List.replicate n (0, 0) }

/-- R106, R114, R115, R121 at their bounds: what an audio block makes of one voice. -/
theorem meets_AudioBlockAndFrames_voices :
    let v := voiceAt
    let w := fun x => (Voice.prepared false 32768 x).finished
    (w (v .priming 32767 0 0)).state = .priming ∧ (w (v .priming 32767 0 1)).state = .sounding
      ∧ (w (v .releasing 16 0 64)).state = .releasing ∧ (w (v .releasing 15 0 64)).state = .free
      ∧ (w (v .fading 31 0 64)).state = .free ∧ (w (v .fading 32 0 64)).env = 16
      ∧ (w (v .sounding 32767 936 64)).state = .free ∧ (w (v .sounding 32767 935 64)).pos = 999
      ∧ (v .sounding 32767 0 63).underruns = true ∧ (v .sounding 32767 0 64).underruns = false := by decide +kernel

/-- R123, R124: a block of one loud voice at master volume 255 and 64 clamps and not, at the bounds. -/
theorem meets_AudioBlockAndFrames_clip :
    outside 32767 = false ∧ outside 32768 = true ∧ outside (-32768) = false ∧ outside (-32769) = true
      ∧ (clipBlock run).mixer.clip = true ∧ noticed .audioClip (clipBlock run) = true
      ∧ (clipBlock { run with mixer.clip := true }).ord.summary = 0
      ∧ ((accumulators [voiceAt .sounding 32767 0 64]).length = 64) := by decide +kernel

theorem meets_AudioBlockAndFrames :
    { run.mixer with target := 160 }.mc < { run.mixer with target := 160 }.target
      ∧ { run.mixer with mc := 3 }.target < { run.mixer with mc := 3 }.mc ∧ run.mixer.mc = run.mixer.target
      ∧ run.phones.sending[run.phones.index]? = some (0, 0) ∧ run.phones.sending[64]? = none := by decide

/-- R56: JWR takes items up to the one that needs the store. -/
theorem meets_EndOfCommandKeepsRecords_hand :
    let items := [JournalItem.readMark 0, .record (recMark 1 2) none, .readMark 1]
    let s := { run with jwr := { Journal.reset with capacity := 256, threshold := 192, hand := items } }
    s.jwr.op = .idle ∧ (finish s).jwr.op = .writing (recMark 1 2) false none none ∧ (finish s).jwr.hand = [.readMark 1]
      ∧ (finish { s with jwr.op := .startRead }).jwr.hand = items ∧ (finish s).busy = some .jwr := by decide +kernel

/-- R185: an access in progress stays; an aged link goes first, and SFU before ORD. -/
theorem meets_EndOfCommandKeepsRecords :
    (finish { run with busy := some .scr }).busy = some .scr
      ∧ (finish { atOrd .summary with busy := none }).busy = some .ord
      ∧ (finish { atOrd .summary with busy := none, burst := some ⟨5, 0, 0, 64, 0⟩ }).busy = some .sfu
      ∧ (finish { atOrd .summary with busy := none, link := { waitingLink none false with aged := true } }).busy = some .link
      ∧ (finish { run with link := waitingLink none false }).busy = some .link ∧ (finish run).busy = none := by decide +kernel

/-! ## Single steps, with the manual's numbers -/

theorem test_reset_idles : step State.reset = .next State.reset := rfl

/-- R18: a span of 760 in 8 ticks, and one in 20 ticks under Sfull 4800. -/
theorem test_speed : normalise 2400 (speed 760 8) = 4096 ∧ normalise 4800 (speed 760 20) = 2075 := by decide

/-- The settings of the worked case of a first strike. -/
def softStrike : Settings := { Settings.reset with usoft := 24, trims := Settings.reset.trims.set 62 2 }

/-- The worked cases after R20: key 62 at velocity 47, key 39's repeat at 80, and the limit cases. -/
theorem test_velocity :
    velocity softStrike 62 760 50 300 = 47 ∧ velocity Settings.reset 39 280 12 0 = 80
      ∧ velocity Settings.reset 0 760 1 0 = 127 ∧ velocity Settings.reset 0 32 4095 0 = 1 := by decide

/-- The falling curve and the heavy soft pedal of the limit cases. -/
theorem test_falling_curve :
    curveVelocity ((Settings.reset.curve.set 10 60).set 11 50) 2760 = 53 ∧ trimmed (softened 5 1023 32) 4 = 5 := by decide

/-- The half-pedal example after R35. -/
theorem test_half_pedal :
    damperFactor Settings.reset 150 = 0 ∧ releaseFactor Settings.reset 0 = 31130
      ∧ damperFactor Settings.reset 333 = 68 ∧ releaseFactor Settings.reset 68 = 31565
      ∧ damperFactor Settings.reset 450 = 128 ∧ releaseFactor Settings.reset 128 = 31949
      ∧ damperFactor Settings.reset 700 = 256 ∧ releaseFactor Settings.reset 256 = 32768 := by decide

/-- The release example after R121. -/
theorem test_release :
    let v := fun e => { Voice.reset with state := .releasing, env := e }
    (v 32767).envelope 31130 = 31129 ∧ (v 31129).envelope 31130 = 29572 ∧ (v 29572).envelope 31130 = 28093
      ∧ (v 32767).envelope 31565 = 31564 := by decide

/-- The worked figures of one voice after R123. -/
theorem test_mix :
    contribution 4487 32767 12000 = 1642 ∧ scaled 200 1642 = 1282
      ∧ contribution 4487 32767 (BitVec.ofInt 16 (-12000)) = -1644 ∧ scaled 200 (-1644) = -1285
      ∧ contribution 4487 32767 1 = 0 ∧ contribution 4487 32767 (BitVec.ofInt 16 (-1)) = -1 ∧ scaled 200 (-1) = -1 := by
  decide

/-- The clamp of the worked figures: 60 000 at master volume 160. -/
theorem test_clamp : outside (scaled 160 60000) = true ∧ outputSample 160 60000 = 32767 ∧ outputSample 160 19000 = 11875 := by
  decide

/-- The example record of 12.7. -/
theorem test_record :
    (recKeyOn 39 80 true 2120).bytes = [0x11, 0x27, 0x50, 0x00, 0x48, 0x08, 0x00, 0x00] := by decide

/-- The worked example of chapter 3: the rest results of channels 12 and 39, the bottom results of 12, 70 and 88. -/
theorem test_capture_results :
    restResult ⟨130560, 480, 540⟩ CalEntry.reset = { CalEntry.reset with unsteady := true }
      ∧ restResult ⟨153702, 596, 606⟩ CalEntry.reset = { CalEntry.reset with rz := 600 }
      ∧ bottomResult ⟨0, 0, 3620⟩ { CalEntry.reset with rz := 512 } = { CalEntry.reset with rz := 512, bt := 3612 }
      ∧ bottomResult ⟨0, 0, 1160⟩ { CalEntry.reset with rz := 900 } = { CalEntry.reset with rz := 900, bt := 1152 }
      ∧ bottomResult ⟨0, 0, 700⟩ { CalEntry.reset with rz := 650 }
          = { CalEntry.reset with rz := 650, notPressed := true } := by decide

/-- The example after R144: a part at tempo 37, with END fetched. -/
def tempo37 : State :=
  { run with play := { Play.reset with state := .playing, tempo := 37 }, scr := { Reader.reset with state := .done } }

theorem test_tempo_37 :
    let p := fun s : State => (s.play.position, s.play.remainder)
    p (clockStep tempo37) = (23, 68) ∧ p (clockStep (clockStep tempo37)) = (47, 36)
      ∧ p (clockStep (clockStep (clockStep tempo37))) = (71, 4) := by decide +kernel

/-- R187, R190: REG_READ of IDENT drives 0x4E010588, least significant byte first. -/
theorem test_ident :
    (readRegister [0, 0] State.reset).link.out = [8, 8, 0, 5, 0, 1, 4, 0xE] := by decide

/-- R187: a command byte picks its transaction: the nibbles 0 0 after 0x31 read IDENT, and after 0x41 set bank 0. -/
theorem test_codes :
    (openByCode 0x31 [0, 0] 0 State.reset).link.out.length = 8 ∧ (openByCode 0x41 [0, 3] 0 State.reset).link.bank = 3
      ∧ (openByCode 0x21 (List.replicate 6 0) 4 State.reset).link.mode = .reading
      ∧ (openByCode 0x22 (List.replicate 6 0) 0 State.reset).link.mode = .writing
      ∧ (openByCode 0x40 [0, 0] 0 State.reset).link.mode = .ignoring := by decide

/-- R190: a register transaction opens while a word of an earlier transaction waits; a store transaction does not. -/
theorem test_register_does_not_wait :
    let s := linked { Link.reset with request := some ⟨0x100, none, true⟩ }
    takesCommand 0x31 s = true ∧ takesCommand 0x32 s = true ∧ takesCommand 0x21 s = false ∧ lrdy s = false
      ∧ lrdy (openByCode 0x31 [0, 0] 0 s) = true := by decide

/-- R129, R131: ABCLK runs outside a reset and is low in one. -/
theorem test_abclk :
    abclk run true = true ∧ abclk run false = false ∧ abclk { run with inReset := true } true = false := by decide

/-- R56: a reset leaves a journal slot wholly new or wholly old; R193: a word of another write may be either. -/
theorem test_abandoned :
    landedBytes true 1 (toBytes 8 0x1234) = toBytes 8 0x1234 ∧ landedBytes true 0 (toBytes 8 0x1234) = []
      ∧ landedBytes false 1 (toBytes 8 0x1234) = toBytes 4 0x1234
      ∧ writesWhole (atJwr (.writing (recGap 3 9) true none none)) = true
      ∧ writesWhole (atOrd (.calEntry 7 CalEntry.reset)) = true ∧ writesWhole (atOrd .summary) = false := by decide

/-- R48, R180: a step on an empty queue ends one access without a row, and the next is granted. -/
theorem test_one_access_at_a_time :
    let s := { run with busy := some .ord, ord := { OrderUnit.reset with list := [.pageWord 0, .pageWord 1] } }
    (passAccess s).ord.list = [.pageWord 1] ∧ (passAccess s).ord.adoption.bytes.length = 4
      ∧ (passAccess s).busy = some .ord := by decide +kernel

/-- R190: AREA keeps a multiple of 16 KiB within 26 bits. -/
theorem test_area : areaValue 0xFFFF_FFFF = 0x03FF_C000 ∧ areaValue 0x3FFF = 0 := by decide

/-- R188: the address of a transaction's word ignores its two low bits and keeps the bank. -/
theorem test_link_address :
    linkAddr { Link.reset with bank := 3, addr := linkAddress [0, 1, 2, 3, 4, 7] } = 0x301_2344
      ∧ nextAddress 0xFF_FFFC = 0 := by decide

/-- The walk-through after R58: a record into a full journal is lost and counted. -/
theorem test_full_journal :
    (takeRecord (recMark 1 2) none { run with jwr := journal 1056 800 0 }).jwr.gap = 1 := by decide

/-- The walk-through after R163: a strike 1920 score frames early has an error of -40 ms. -/
theorem test_timing_error : timingError 46080 48000 = -40 ∧ timingError 52800 52800 = 0 := by decide

/-- R82: a rail tick at a closed switch arrives. -/
theorem test_arrival :
    (arrivalStep (railed { moveRail .engaging .silent with inputs := inputsAt true false })).rail.state = .engaged := by
  decide

/-- R174: an order while RUN is clear changes nothing but the answer queued. -/
theorem test_refused :
    (whenRunning .play 12 (startOrder 12) State.reset).ord.list = [.answer .play 12 .refusedState] := by decide

end Sys2Proof.Tests
end

section
/-!
SUPPORT. The rail controller's operations (chapter 5): what each does to the rail record, and the soundness of that record (R67).
-/

namespace Sys2Proof.Machine.RailProofs

/-! ## Rail states -/

theorem derived_still (i : Inputs) : i.derived.moving = false := by
  unfold Inputs.derived
  split <;> rfl

theorem arrivedState_still (g : Target) : g.arrivedState.moving = false := by cases g <;> rfl

theorem driving_cases {st : RailState} (h : st.driving = true) : st = .engaging ∨ st = .releasing := by
  cases st with
  | engaging => exact .inl rfl
  | releasing => exact .inr rfl
  | retracted | engaged | part | paused | reversing | stalled => cases h

theorem resting_cases {st : RailState} (h : st.resting = true) : st = .retracted ∨ st = .engaged ∨ st = .part := by
  cases st with
  | retracted => exact .inl rfl
  | engaged => exact .inr (.inl rfl)
  | part => exact .inr (.inr rfl)
  | engaging | releasing | paused | reversing | stalled => cases h

theorem moving_of_driving {st : RailState} (h : st.driving = true) : st.moving = true := by
  obtain rfl | rfl := driving_cases h <;> rfl

/-- A rail with no move in flight is sound. -/
theorem sound_of_still {r : Rail} (h : r.state.moving = false) : r.sound :=
  ⟨fun hm => absurd hm (by simp [h]), fun hd => absurd (moving_of_driving hd) (by simp [h])⟩

/-- A move under FREE is sound in a state in which the motor stands still. -/
theorem sound_of_free {r : Rail} (hp : r.perm = .free) (hd : r.state.driving = false) : r.sound :=
  ⟨fun _ => hp, fun h => absurd h (by simp [hd])⟩

/-- A move under FREE that drives or is paused as the quiet flag says is sound (R75, R77). -/
theorem sound_of_choice {r : Rail} (d : Direction) (hp : r.perm = .free)
    (hs : r.state = if r.quiet then d.running else .paused) : r.sound := by
  refine ⟨fun _ => hp, fun hd => ?_⟩
  cases hq : r.quiet with
  | true => rfl
  | false =>
    rw [hs, hq] at hd
    cases hd

/-- The motor lines of a sound rail (R67). -/
theorem motor_of_sound {s : State} (h : s.rail.sound) :
    !(motorIn s && motorOut s)
      ∧ ((motorIn s || motorOut s) = true → s.rail.perm = .free ∧ s.rail.quiet = true) := by
  obtain ⟨hfree, hquiet⟩ := h
  unfold motorIn motorOut
  cases hs : s.rail.state with
  | engaging | releasing =>
    rw [hs] at hfree hquiet
    exact ⟨rfl, fun _ => ⟨hfree rfl, hquiet rfl⟩⟩
  | retracted | engaged | part | paused | reversing | stalled => exact ⟨rfl, nofun⟩

/-! ## The rail record after each operation -/

/-- An operation that leaves a sound rail sound (R67). -/
def keepsSound (f : State → State) : Prop := ∀ s : State, s.rail.sound → (f s).rail.sound

/-- An operation that leaves the rail record alone. -/
def leavesRail (f : State → State) : Prop := ∀ s : State, (f s).rail = s.rail

theorem leavesRail.keepsSound {f : State → State} (h : leavesRail f) : keepsSound f := fun s hs => (h s).symm ▸ hs

theorem rail_of_calm {s t : State} (h : calm t = calm s) : t.rail = s.rail := congrArg Calm.rail h

theorem readerOnly_rail {s t : State} (h : readerOnly s t) : t.rail = s.rail := by
  obtain ⟨r, p, hc⟩ := h
  exact congrArg Calm.rail hc

theorem voicesOnly_rail {s t : State} (h : voicesOnly s t) : t.rail = s.rail := congrArg Calm.rail h.calm

@[simp] theorem rail_notice (n : Notice) (s : State) : (notice n s).rail = s.rail := rail_of_calm (notice_calm n s)
@[simp] theorem rail_noticeIf (c : Bool) (n : Notice) (s : State) : (noticeIf c n s).rail = s.rail :=
  rail_of_calm (noticeIf_calm c n s)
@[simp] theorem rail_answer (slot : Slot) (seq : Half) (r : Result) (s : State) :
    (answer slot seq r s).rail = s.rail := rfl
@[simp] theorem rail_answerOwed (slot : Slot) (seq : Option Half) (r : Result) (s : State) :
    (answerOwed slot seq r s).rail = s.rail := rail_of_calm (answerOwed_calm slot seq r s)
@[simp] theorem rail_handRecord (r : Record) (s : State) : (handRecord r s).rail = s.rail :=
  rail_of_calm (handRecord_calm r s)
@[simp] theorem rail_handRecords (l : List Record) (s : State) : (handRecords l s).rail = s.rail :=
  rail_of_calm (handRecords_calm l s)
@[simp] theorem rail_reorderHand (n : Nat) (l : List Nat) (s : State) : (reorderHand n l s).rail = s.rail := rfl

/-- R83, R84: the record of a stalled rail. -/
@[simp] theorem stall_rail (f : FaultCause) (c : StopCause) (s : State) :
    (stall f c s).rail = { s.rail with state := .stalled, dir := none, limits := none, fault := f, stop := c,
                                       pause := 0, dwell := 0 } := by
  simp [stall]

/-- R76: a move that ends short with both switches closed stalls. -/
theorem endShort_stalls {c : StopCause} {s : State} (h : s.rail.inputs.derived = .stalled) :
    endShort c s = stall .switch .switch s := by
  simp [endShort, h]

/-- R76: a move that ends short otherwise takes the switch-derived state. -/
theorem endShort_derives {c : StopCause} {s : State} (h : s.rail.inputs.derived ≠ .stalled) :
    endShort c s = noticeIf (c != .stopped) .railPartial
      (railTo { s.rail with state := s.rail.inputs.derived, dir := none, limits := none, pause := 0, dwell := 0,
                            stop := c } s) := by
  simp [endShort, h]

/-- R76: no move is in flight after it has ended short. -/
theorem endShort_still (c : StopCause) (s : State) : (endShort c s).rail.state.moving = false := by
  by_cases h : s.rail.inputs.derived = .stalled
  · rw [endShort_stalls h, stall_rail]
    rfl
  · rw [endShort_derives h, rail_noticeIf, railTo_rail]
    exact derived_still _

theorem endShort_inputs (c : StopCause) (s : State) : (endShort c s).rail.inputs = s.rail.inputs := by
  by_cases h : s.rail.inputs.derived = .stalled
  · rw [endShort_stalls h, stall_rail]
  · rw [endShort_derives h, rail_noticeIf, railTo_rail]

/-- R75: a move that starts under FREE is sound. -/
theorem startMove_sound {s : State} (target : Target) (src : Source) (h : s.rail.perm = .free) :
    (startMove target src s).rail.sound := by
  rw [startMove, railTo_rail]
  exact sound_of_choice target.direction h rfl

/-! ## Requests, case by case (R74, R75, R77, R78) -/

section
variable {s : State} {target : Target} {src : Source}

theorem request_stalled (h : s.rail.state = .stalled) : request target src s = (s, .refusedFault) := by
  simp [request, h]

/-- R74: a request for the end at which the rail stands. -/
theorem request_stands (h : standsAt s.rail.state target = true) : request target src s = (s, .completed) := by
  have hs : s.rail.state = .retracted ∨ s.rail.state = .engaged := by
    cases hs : s.rail.state <;> simp [hs, standsAt] at h ⊢
  obtain hs | hs := hs <;> rw [hs] at h <;> simp [request, hs, h]

/-- R75: a request that starts a move. -/
theorem request_starts (h : s.rail.state.resting = true) (hs : standsAt s.rail.state target = false)
    (hp : s.rail.perm = .free) : request target src s = (startMove target src s, .accepted) := by
  obtain hr | hr | hr := resting_cases h <;> rw [hr] at hs <;> simp [request, hr, hs, hp]

theorem request_refused (h : s.rail.state.resting = true) (hs : standsAt s.rail.state target = false)
    (hp : s.rail.perm ≠ .free) : request target src s = (s, .refusedState) := by
  obtain hr | hr | hr := resting_cases h <;> rw [hr] at hs <;> simp [request, hr, hs, hp]

/-- R78: a request for the target of the move in flight, while it drives. -/
theorem request_absorbed (h : s.rail.state.driving = true) (ht : s.rail.target = target) :
    request target src s = ({ s with rail.source := src }, .accepted) := by
  obtain hr | hr := driving_cases h <;> simp [request, hr, ht]

/-- R77: a request for the other target, while the move drives. -/
theorem request_reverses (h : s.rail.state.driving = true) (ht : s.rail.target ≠ target) :
    request target src s =
      (railTo { s.rail with state := .reversing, target := target, dwell := 0, source := src } s, .accepted) := by
  obtain hr | hr := driving_cases h <;> simp [request, hr, Ne.symm ht]

/-- R78: a request for the target of the move in flight, while it is paused. -/
theorem request_absorbed_paused (h : s.rail.state = .paused) (ht : s.rail.target = target) :
    request target src s = ({ s with rail.source := src }, .accepted) := by
  simp [request, h, ht]

/-- R77: a request for the other target turns a paused move at once. -/
theorem request_turns (h : s.rail.state = .paused) (ht : s.rail.target ≠ target) :
    request target src s =
      ({ s with rail := { s.rail with target := target, dir := some target.direction, travel := 0, source := src } },
        .accepted) := by
  simp [request, h, Ne.symm ht]

/-- R77: a request during the dwell. -/
theorem request_dwells (h : s.rail.state = .reversing) :
    request target src s = ({ s with rail := { s.rail with target := target, source := src } }, .accepted) := by
  simp [request, h]

/-- R74, R75, R77, R78: all that a request can do to the state. -/
theorem request_cases (target : Target) (src : Source) (s : State) :
    (request target src s).1 = s
    ∨ (s.rail.perm = .free ∧ (request target src s).1 = startMove target src s)
    ∨ (request target src s).1 = { s with rail.source := src }
    ∨ (s.rail.state.driving = true ∧ (request target src s).1 =
        railTo { s.rail with state := .reversing, target := target, dwell := 0, source := src } s)
    ∨ (s.rail.state = .paused ∧ (request target src s).1 =
        { s with rail := { s.rail with target := target, dir := some target.direction, travel := 0, source := src } })
    ∨ (s.rail.state = .reversing ∧ (request target src s).1 =
        { s with rail := { s.rail with target := target, source := src } }) := by
  cases hs : s.rail.state with
  | stalled => simp [request_stalled hs]
  | retracted | engaged | part =>
    have hrest : s.rail.state.resting = true := by rw [hs]; rfl
    cases hend : standsAt s.rail.state target with
    | true => simp [request_stands hend]
    | false =>
      by_cases hp : s.rail.perm = .free
      · simp [request_starts hrest hend hp, hp]
      · simp [request_refused hrest hend hp]
  | engaging | releasing =>
    have hdrive : s.rail.state.driving = true := by rw [hs]; rfl
    by_cases ht : s.rail.target = target
    · simp [request_absorbed hdrive ht]
    · simp [request_reverses hdrive ht, RailState.driving]
  | paused =>
    by_cases ht : s.rail.target = target
    · simp [request_absorbed_paused hs ht]
    · simp [request_turns hs ht]
  | reversing => simp [request_dwells hs]

end

/-- R67: a request keeps a move under FREE, and starts none otherwise. -/
theorem request_sound (target : Target) (src : Source) : keepsSound fun s => (request target src s).1 := by
  intro s h
  have hfree : s.rail.state.moving = true → s.rail.perm = .free := h.1
  dsimp only
  obtain e | ⟨hp, e⟩ | e | ⟨hd, e⟩ | ⟨hs, e⟩ | ⟨_, e⟩ := request_cases target src s <;> rw [e]
  · exact h
  · exact startMove_sound target src hp
  · exact h
  · rw [railTo_rail]
    exact sound_of_free (hfree (moving_of_driving hd)) rfl
  · exact sound_of_free (hfree (by rw [hs]; rfl)) (by rw [hs]; rfl)
  · exact h

/-! ## The hammer-quiet evaluation, case by case (R72, R79, R80) -/

section
variable {s : State}

/-- The quiet flag is all that an evaluation changes of a driving rail on quiet hammers. -/
theorem setQuiet_drives (h : s.rail.state.driving = true) : setQuiet true s = { s with rail.quiet := true } := by
  obtain hs | hs := driving_cases h <;> simp [setQuiet, hs]

theorem setQuiet_pauses (h : s.rail.state.driving = true) :
    setQuiet false s = railTo { s.rail with quiet := false, state := .paused, pause := 0 } s := by
  obtain hs | hs := driving_cases h <;> simp [setQuiet, hs]

theorem setQuiet_resumes {d : Direction} (h : s.rail.state = .paused) (hd : s.rail.dir = some d) :
    setQuiet true s = railTo { s.rail with quiet := true, state := d.running, pause := 0 } s := by
  simp [setQuiet, h, hd]

theorem setQuiet_waits (h : s.rail.state = .paused) : setQuiet false s = { s with rail.quiet := false } := by
  cases hd : s.rail.dir <;> simp [setQuiet, h, hd]

theorem setQuiet_without_direction {q : Bool} (h : s.rail.state = .paused) (hd : s.rail.dir = none) :
    setQuiet q s = { s with rail.quiet := q } := by
  simp [setQuiet, h, hd]

theorem setQuiet_rests {q : Bool} (h : s.rail.state.driving = false) (hp : s.rail.state ≠ .paused) :
    setQuiet q s = { s with rail.quiet := q } := by
  cases hs : s.rail.state with
  | retracted | engaged | part | reversing | stalled => simp [setQuiet, hs]
  | engaging | releasing => simp [hs, RailState.driving] at h
  | paused => exact absurd hs hp

end

/-- R72, R79, R80: a running move pauses where the condition fails, and a paused one runs on only where it holds. -/
theorem setQuiet_sound (q : Bool) : keepsSound (setQuiet q) := by
  intro s h
  have hfree : s.rail.state.moving = true → s.rail.perm = .free := h.1
  have hstand (hd : s.rail.state.driving = false) : ({ s.rail with quiet := q } : Rail).sound :=
    ⟨hfree, fun h => absurd h (by simp [hd])⟩
  by_cases hd : s.rail.state.driving = true
  · have hp := hfree (moving_of_driving hd)
    cases q with
    | true =>
      rw [setQuiet_drives hd]
      exact ⟨hfree, fun _ => rfl⟩
    | false =>
      rw [setQuiet_pauses hd, railTo_rail]
      exact sound_of_free hp rfl
  · have hd : s.rail.state.driving = false := by simpa using hd
    by_cases hs : s.rail.state = .paused
    · have hp : s.rail.perm = .free := hfree (by rw [hs]; rfl)
      cases q with
      | false =>
        rw [setQuiet_waits hs]
        exact hstand hd
      | true =>
        cases hr : s.rail.dir with
        | none =>
          rw [setQuiet_without_direction hs hr]
          exact hstand hd
        | some d =>
          rw [setQuiet_resumes hs hr, railTo_rail]
          exact ⟨fun _ => hp, fun _ => rfl⟩
    · rw [setQuiet_rests hd hs]
      exact hstand hd

theorem quietStep_sound (keys : Vector KeyRec 88) (struck : Bool) : keepsSound (quietStep keys struck) :=
  fun _ h => setQuiet_sound _ _ h

theorem sampleStep_sound (l : Lines) : keepsSound (sampleStep l) := by
  intro s h
  unfold sampleStep
  dsimp only
  split
  · exact request_sound _ .lever _ h
  · exact h

theorem switchStep_sound : keepsSound switchStep := by
  intro s h
  unfold switchStep
  split
  · rw [stall_rail]
    exact sound_of_still rfl
  · exact h

theorem arrivalStep_sound : keepsSound arrivalStep := by
  intro s h
  unfold arrivalStep
  split
  · rw [rail_notice, railTo_rail]
    exact sound_of_still (arrivedState_still _)
  · exact h

theorem driftStep_sound : keepsSound driftStep := by
  intro s h
  unfold driftStep
  split
  · rw [rail_noticeIf, railTo_rail]
    exact sound_of_still (derived_still _)
  · exact h

theorem countTravel_sound : keepsSound countTravel := by
  intro s h
  unfold countTravel
  dsimp only
  split
  · rw [stall_rail]
    exact sound_of_still rfl
  · exact h

theorem countPause_sound : keepsSound countPause := by
  intro s h
  unfold countPause
  split
  · exact sound_of_still (endShort_still _ _)
  · exact h

/-- R77: the dwell of a move under FREE ends. -/
theorem countDwell_sound {s : State} (hp : s.rail.perm = .free) (h : s.rail.sound) : (countDwell s).rail.sound := by
  unfold countDwell
  split
  · rw [endDwell, railTo_rail]
    exact sound_of_choice s.rail.target.direction hp rfl
  · exact h

theorem countStep_sound : keepsSound countStep := by
  intro s h
  unfold countStep
  cases hs : s.rail.state with
  | engaging | releasing => exact countTravel_sound s h
  | paused => exact countPause_sound s h
  | reversing => exact countDwell_sound (h.1 (by rw [hs]; rfl)) h
  | retracted | engaged | part | stalled => exact h

theorem tickSteps_sound (l : Lines) : keepsSound (tickSteps l) := fun s h =>
  countStep_sound _ (driftStep_sound _ (arrivalStep_sound _ (switchStep_sound _ (sampleStep_sound l s h))))

/-- R86: RLC's work at a scan completion keeps the rail sound. -/
theorem railScan_sound (l : Lines) (keys : Vector KeyRec 88) (struck : Bool) : keepsSound (railScan l keys struck) := by
  intro s h
  have hq := quietStep_sound keys struck s h
  unfold railScan
  dsimp only
  split
  · exact tickSteps_sound l _ hq
  · exact hq

/-- R88: a permission other than FREE ends a move in flight. -/
theorem setPermission_sound (p : Permission) : keepsSound (setPermission p) := by
  intro s h
  obtain ⟨hfree, hquiet⟩ := h
  unfold setPermission
  dsimp only
  split
  · exact sound_of_still (endShort_still _ _)
  · rename_i hc
    refine ⟨fun hm => ?_, hquiet⟩
    have hm : s.rail.state.moving = true := hm
    simpa [hm, hfree hm] using hc

theorem permissionOrder_sound (p : Permission) (seq : Half) : keepsSound (permissionOrder p seq) := by
  intro s h
  unfold permissionOrder
  split
  · exact h
  · exact setPermission_sound p s h

theorem clearFaultOrder_sound (seq : Half) : keepsSound (clearFaultOrder seq) := by
  intro s h
  unfold clearFaultOrder
  split
  · split
    · exact h
    · rw [rail_answer, railTo_rail]
      exact sound_of_still (derived_still _)
  · exact h

theorem moveOrder_sound (target : Target) (seq : Half) : keepsSound (moveOrder target seq) :=
  fun s h => request_sound target .host s h

/-- R91: no move is in flight after RUN clear. -/
theorem railStop_sound : keepsSound railStop := by
  intro s h
  unfold railStop
  split
  · exact sound_of_still (endShort_still _ _)
  · split
    · rw [railRecordNow, rail_handRecord]
      exact h
    · unfold stopResting railRecordNow
      dsimp only
      split
      · rw [rail_handRecord, rail_notice]
        exact sound_of_still rfl
      · rw [rail_handRecord]
        exact sound_of_still (derived_still _)

/-- R92: no move is in flight after RUN has risen. -/
theorem railAtStart_still (l : Lines) (r : Rail) : (railAtStart l r).state.moving = false := by
  unfold railAtStart
  dsimp only
  split
  · rename_i h
    exact h ▸ rfl
  · split
    · rfl
    · exact derived_still _

theorem railStart_sound (l : Lines) (s : State) : (railStart l s).rail.sound := by
  rw [railStart, rail_noticeIf]
  exact sound_of_still (railAtStart_still l s.rail)

/-- R93. -/
theorem reset_sound (l : Lines) : (Rail.reset l).sound := sound_of_still (derived_still _)

end Sys2Proof.Machine.RailProofs
end

section
/-!
SUPPORT. What the other blocks leave of the rail record, and of the records that RLC reads at a scan completion.
-/

namespace Sys2Proof.Machine.RailProofs

/-! ## What RLC reads -/

/-- What RLC's work at a scan completion reads besides its operands: the rail record, the settings, the capture state (R72) and the scan count (R70). -/
structure RailSight where
  rail      : Rail
  settings  : Settings
  capture   : Option CaptureKind
  scanCount : Word

/-- What RLC reads, and what says which keys RLC is shown at a scan: the key table, the mode and depth of the soft pedal, which give the LIVE soft depth of the scan's touches (R20, R39), and the scans of a capture (R45, R46). -/
structure Sight where
  rlc   : RailSight
  keys  : Vector KeyRec 88
  soft  : PedalMode × Nat
  scans : Nat

/-- What RLC reads of a state. -/
def railSight (s : State) : RailSight := ⟨s.rail, s.settings, s.cap.running, s.scanCount⟩

/-- All of it is in the calm part. -/
def calmSight (c : Calm) : Sight :=
  ⟨⟨c.rail, c.settings, c.cap.running, c.scanCount⟩, c.keys,
    (c.pedals[(2 : Fin 3)].mode, c.pedals[(2 : Fin 3)].sensor.depth), c.cap.scans⟩

/-- What a scan shows RLC of a state. -/
def sight (s : State) : Sight := calmSight (calm s)

theorem rail_of_railSight {s t : State} (h : railSight t = railSight s) : t.rail = s.rail := congrArg RailSight.rail h

theorem scanCount_of_railSight {s t : State} (h : railSight t = railSight s) : t.scanCount = s.scanCount :=
  congrArg RailSight.scanCount h

theorem railSight_with (s : State) (ks : Vector KeyRec 88) (ps : Vector PedalRec 3) :
    railSight { s with keys := ks, pedals := ps } = railSight s := rfl

theorem railSight_of_sight {s t : State} (h : sight t = sight s) : railSight t = railSight s := congrArg Sight.rlc h

theorem sight_of_calm {s t : State} (h : calm t = calm s) : sight t = sight s := congrArg calmSight h

theorem sight_of_readerOnly {s t : State} (h : readerOnly s t) : sight t = sight s := by
  obtain ⟨r, p, hc⟩ := h
  exact (congrArg calmSight hc).trans rfl

theorem sight_of_railOnly {s t : State} (h : railOnly s t) : ∃ r, sight t = { sight s with rlc.rail := r } := by
  obtain ⟨r, hc⟩ := h
  exact ⟨r, (congrArg calmSight hc).trans rfl⟩

theorem railOnly_scanCount {s t : State} (h : railOnly s t) : t.scanCount = s.scanCount := by
  obtain ⟨r, hc⟩ := h
  exact congrArg Calm.scanCount hc

theorem sight_of_voicesOnly {s t : State} (h : voicesOnly s t) : sight t = sight s :=
  (congrArg calmSight h.calm).trans rfl

theorem rail_of_sight {s t : State} (h : sight t = sight s) : t.rail = s.rail :=
  rail_of_railSight (railSight_of_sight h)

/-! ## Voices, contexts and pedals -/

theorem sight_startRequest (src : VoiceSource) (k : Fin 88) (v : Nat) (s : State) :
    sight (startRequest src k v s) = sight s := sight_of_voicesOnly (voicesOnly_startRequest src k v s)

theorem sight_deliver (e : KeyEvent) (s : State) : sight (deliver e s) = sight s := by
  unfold deliver
  split
  · exact sight_startRequest _ _ _ s
  · exact sight_of_calm (releaseVoice_calm _ _ s)

theorem sight_liveContext (rise fall : KeySet) (s : State) : sight (liveContext rise fall s) = sight s := by
  unfold liveContext
  split
  · rfl
  · exact (congrArg calmSight (evaluateContext_live rise fall _)).trans rfl

theorem sight_decidePedal (now : Word) (s : State) (p : Fin 3) : sight (decidePedal now s p) = sight s := by
  unfold decidePedal
  dsimp only
  split
  · refine (sight_of_calm (handRecord_calm _ _)).trans ?_
    have h : ∀ v : PedalRec, v.mode = s.pedals[p].mode → v.sensor = s.pedals[p].sensor →
        ((s.pedals.set p.val v p.isLt)[(2 : Fin 3)].mode, (s.pedals.set p.val v p.isLt)[(2 : Fin 3)].sensor.depth)
          = (s.pedals[(2 : Fin 3)].mode, s.pedals[(2 : Fin 3)].sensor.depth) := by
      intro v hm hs
      by_cases hp : p = 2
      · subst hp
        simp [hm, hs]
      · have hv : p.val ≠ 2 := fun e => hp (Fin.ext e)
        simp [hv]
    exact congrArg (fun v => Sight.mk (railSight s) s.keys v s.cap.scans) (h _ rfl rfl)
  · rfl

theorem sight_decidePedals (now : Word) (s : State) : sight (decidePedals now s) = sight s := by
  rw [decidePedals, sight_decidePedal, sight_decidePedal, sight_decidePedal]

/-! ## The guide matcher -/

theorem readerOnly_testWaiting (s : State) : readerOnly s (testWaiting s) := by
  unfold testWaiting
  split
  · exact readerOnly_setPlay _ s
  · exact readerOnly.refl s

theorem readerOnly_guideStrike (k : Fin 88) (v : Nat) (s : State) : readerOnly s (guideStrike k v s) := by
  unfold guideStrike
  split
  · split
    · exact ((readerOnly_with s s.scr _).trans (readerOnly_of_calm (handRecord_calm _ _))).trans
        (readerOnly_testWaiting _)
    · split
      · exact readerOnly_of_calm (handRecord_calm _ s)
      · exact readerOnly.refl s
  · exact readerOnly.refl s

theorem sight_takeStrikes : ∀ (l : List KeyEvent) (s : State), sight (takeStrikes l s) = sight s
  | [], _ => rfl
  | e :: es, s => by
    unfold takeStrikes
    split
    · rw [sight_takeStrikes es]
      exact sight_of_readerOnly (readerOnly_guideStrike _ _ s)
    · exact sight_takeStrikes es s

/-! ## The refreshes -/

theorem calm_refreshView (n : Word) (s : State) : calm (refreshView n s) = calm s := by
  unfold refreshView
  split <;> rfl

theorem calm_refreshStatus (n : Word) (s : State) : calm (refreshStatus n s) = calm s :=
  (quiet_refreshStatus n s).calm

theorem calm_callRefreshes (c : ScanChoice) (n : Word) (s : State) : calm (callRefreshes c n s) = calm s := rfl

/-- The copies taken before a scan completion leave the calm part (R65, R66). -/
theorem calm_copiesBefore (c : ScanChoice) (n : Word) (s : State) : calm (copiesBefore c n s) = calm s := by
  have hv : calm (if c.viewFirst then refreshView n s else s) = calm s := by
    split
    · exact calm_refreshView n s
    · rfl
  unfold copiesBefore
  split
  · unfold earlyCopies
    dsimp only
    split
    · exact (calm_refreshStatus n _).trans hv
    · exact hv
  · rfl

/-! ## Captures -/

theorem rail_evaluateNow (src : VoiceSource) (s : State) : (evaluateNow src s).rail = s.rail := by
  cases src with
  | live => exact congrArg Calm.rail (evaluateContext_live _ _ s)
  | playback => exact congrArg Calm.rail (evaluateContext_playback _ _ s)

/-- A change of what CAP's end of a capture may change of the calm part (R25, R31, R48). -/
def captureOnly (s t : State) : Prop :=
  ∃ ks ps lv cl cp, calm t = { calm s with keys := ks, pedals := ps, live := lv, cal := cl, cap := cp }

theorem captureOnly_rail {s t : State} (h : captureOnly s t) : t.rail = s.rail := by
  obtain ⟨_, _, _, _, _, hc⟩ := h
  exact congrArg Calm.rail hc

theorem captureOnly_scanCount {s t : State} (h : captureOnly s t) : t.scanCount = s.scanCount := by
  obtain ⟨_, _, _, _, _, hc⟩ := h
  exact congrArg Calm.scanCount hc

theorem captureOnly_with (s : State) (cl : Vector CalEntry 96) (cp : Capture) (stale : Bool) :
    captureOnly s { s with cal := cl, cap := cp, ord.adoption.stale := stale } := ⟨_, _, _, _, _, rfl⟩

theorem captureOnly.trans {s t u : State} (h : captureOnly s t) (k : captureOnly t u) : captureOnly s u := by
  obtain ⟨_, _, _, _, _, h⟩ := h
  obtain ⟨ks, ps, lv, cl, cp, k⟩ := k
  exact ⟨ks, ps, lv, cl, cp, by rw [k, h]⟩

theorem captureOnly_of_calm {s t : State} (h : calm t = calm s) : captureOnly s t := ⟨_, _, _, _, _, h⟩

theorem captureOnly_sensing (s : State) (ks : Vector KeyRec 88) (ps : Vector PedalRec 3) (lv : Context) :
    captureOnly s { s with keys := ks, pedals := ps, live := lv } := ⟨_, _, _, _, _, rfl⟩

theorem captureOnly_evaluateNow (s : State) : captureOnly s (evaluateNow .live s) :=
  ⟨_, _, _, _, _, evaluateContext_live _ _ s⟩

theorem captureOnly_leaveCapture (s : State) : captureOnly s (leaveCapture s) := by
  unfold leaveCapture
  exact ((captureOnly_sensing s _ _ _).trans (captureOnly_evaluateNow _)).trans
    (captureOnly_of_calm (noticeIf_calm _ _ _))

theorem captureOnly_completeCapture (kind : CaptureKind) (cause : EndCause) (order : Option Half) (s : State) :
    captureOnly s (completeCapture kind cause order s) := by
  unfold completeCapture
  exact (((captureOnly_with s _ _ _).trans (captureOnly_leaveCapture _)).trans
    (captureOnly_of_calm (pushOrds_calm _ _))).trans (captureOnly_of_calm (handRecord_calm _ _))

theorem captureOnly_captureScan (s : State) : captureOnly s (captureScan s) := by
  have hcount (kind : CaptureKind) : captureOnly s (countScan kind s) := ⟨_, _, _, _, _, rfl⟩
  unfold captureScan
  split
  · exact ⟨_, _, _, _, _, rfl⟩
  · dsimp only
    split
    · exact (hcount _).trans (captureOnly_completeCapture _ _ _ _)
    · exact hcount _

/-- R45, R46: the capture in progress, if any, does not end at this scan. -/
def capturesOn (s : State) : Prop :=
  (s.cap.running = some .rest → s.cap.scans + 1 < 256) ∧ (s.cap.running = some .bottom → s.cap.scans + 1 < 480000)

theorem capturesOn_of_sight {s t : State} (hr : (sight t).rlc.capture = (sight s).rlc.capture)
    (hn : (sight t).scans = (sight s).scans) (h : capturesOn s) : capturesOn t := by
  have hr : t.cap.running = s.cap.running := hr
  have hn : t.cap.scans = s.cap.scans := hn
  rw [capturesOn, hr, hn]
  exact h

/-- A scan before the last one of a capture is counted, and nothing else that RLC is shown changes. -/
theorem captureScan_goesOn {s : State} (h : capturesOn s) :
    railSight (captureScan s) = railSight s ∧ (captureScan s).keys = s.keys ∧ (captureScan s).pedals = s.pedals := by
  obtain ⟨hr, hb⟩ := h
  unfold captureScan
  split
  · exact ⟨rfl, rfl, rfl⟩
  · rename_i kind hk
    have hlen : ¬ captureLength kind ≤ (countScan kind s).cap.scans := by
      cases kind with
      | rest => exact Nat.not_le.mpr (hr hk)
      | bottom => exact Nat.not_le.mpr (hb hk)
    dsimp only
    rw [if_neg hlen]
    exact ⟨rfl, rfl, rfl⟩

theorem rail_captureScan : leavesRail captureScan := fun s => captureOnly_rail (captureOnly_captureScan s)

theorem rail_completeCapture (kind : CaptureKind) (cause : EndCause) (order : Option Half) :
    leavesRail (completeCapture kind cause order) := fun s => captureOnly_rail (captureOnly_completeCapture _ _ _ s)

theorem rail_abandonCapture (kind : CaptureKind) : leavesRail (abandonCapture kind) := by
  intro s
  rw [abandonCapture, captureOnly_rail (captureOnly_leaveCapture _)]

theorem rail_stopCapture : leavesRail stopCapture := by
  intro s
  unfold stopCapture
  split
  · exact rail_abandonCapture _ s
  · rfl

theorem rail_foldl_release (l : List KeyEvent) :
    ∀ s : State, (l.foldl (fun t e => releaseVoice .live e.key t) s).rail = s.rail := by
  induction l with
  | nil => exact fun _ => rfl
  | cons e es ih => exact fun s => (ih _).trans (rail_of_calm (releaseVoice_calm _ _ s))

theorem rail_takeOffs (l : List KeyEvent) : leavesRail (takeOffs l) := by
  intro s
  rw [takeOffs, rail_handRecords, rail_foldl_release]

theorem rail_captureOrder (kind : CaptureKind) (seq : Half) (order : List Nat) :
    leavesRail (captureOrder kind seq order) := by
  intro s
  unfold captureOrder
  split
  · rfl
  · rw [beginCapture, rail_reorderHand, rail_takeOffs]

theorem rail_endOrder (seq : Half) : leavesRail (endOrder seq) := by
  intro s
  unfold endOrder
  split
  · exact rail_completeCapture _ _ _ s
  · rfl
  · rfl

theorem rail_abandonOrder (seq : Half) : leavesRail (abandonOrder seq) := by
  intro s
  unfold abandonOrder
  split
  · rw [rail_notice, rail_answer, rail_handRecord, rail_abandonCapture]
  · rfl

theorem rail_tableWritten : leavesRail tableWritten := by
  intro s
  rw [tableWritten, rail_notice, rail_answerOwed, rail_answerOwed]

/-! ## Playback -/

theorem rail_setPlay (st : PlayState) : leavesRail (setPlay st) := fun s => congrArg Calm.rail (setPlay_calm st s)

theorem rail_readerGo : leavesRail readerGo := fun s => readerOnly_rail (readerOnly_readerGo s)

theorem rail_answerSeek (r : Result) : leavesRail (answerSeek r) := fun s => readerOnly_rail (readerOnly_answerSeek r s)

theorem rail_fadePlayback : leavesRail fadePlayback := fun s => rail_of_calm (fadePlayback_calm s)

theorem rail_sostenutoFall (src : VoiceSource) (k : KeySet) : leavesRail (sostenutoFall src k) :=
  fun s => rail_of_calm (sostenutoFall_calm src k s)

theorem rail_releaseVoice (src : VoiceSource) (k : Fin 88) : leavesRail (releaseVoice src k) :=
  fun s => rail_of_calm (releaseVoice_calm src k s)

theorem rail_startRequest (src : VoiceSource) (k : Fin 88) (v : Nat) : leavesRail (startRequest src k v) :=
  fun s => rail_of_sight (sight_startRequest src k v s)

theorem rail_endPlayback (c : PlayEnd) : leavesRail (endPlayback c) :=
  fun s => readerOnly_rail (readerOnly_endPlayback c s)

theorem rail_startSeek (m : Nat) (order : Option Half) : leavesRail (startSeek m order) :=
  fun _ => rail_notice _ _

theorem rail_playbackPedal (p v : Nat) : leavesRail (playbackPedal p v) := fun _ => rail_evaluateNow _ _

theorem rail_seekFound (id block index due : Nat) : leavesRail (seekFound id block index due) := by
  intro s
  rw [seekFound, rail_answerSeek, rail_setPlay]
  split <;> rfl

theorem rail_seekEvent (m : Nat) (e : QueueEntry) : leavesRail (seekEvent m e) := by
  intro s
  unfold seekEvent
  split
  · exact rail_playbackPedal _ _ s
  · split
    · exact rail_seekFound _ _ _ _ s
    · rfl
  · rw [seekNotFound, rail_answerSeek, rail_setPlay]
    rfl
  · rfl
  · rfl

theorem rail_queueEvent (e : QueueEntry) : leavesRail (queueEvent e) := by
  intro s
  have hj : (joinQueue e s).rail = s.rail := by
    unfold joinQueue
    dsimp only
    split
    · exact rail_setPlay _ _
    · rfl
  unfold queueEvent
  dsimp only
  split <;> exact hj

theorem rail_takeEvent (block : Nat) (e : RawEvent) : leavesRail (takeEvent block e) := by
  intro s
  unfold takeEvent
  dsimp only
  split
  · rfl
  · split
    · exact rail_seekEvent _ _ _
    · exact rail_queueEvent _ _

theorem rail_takeEvents (block : Nat) : ∀ (l : List RawEvent) (s : State), (takeEvents block l s).rail = s.rail
  | [], _ => rfl
  | e :: es, s => by
    unfold takeEvents
    split
    · rw [rail_takeEvents block es, rail_takeEvent]
    · rfl

theorem rail_takeHeader (block : Nat) : leavesRail (takeHeader block) := by
  intro s
  unfold takeHeader
  dsimp only
  split
  · split
    · exact readerOnly_rail (readerOnly_scoreFault _ s)
    · exact rail_readerGo _
  · rfl

theorem rail_scoreReadDone : leavesRail scoreReadDone := by
  intro s
  unfold scoreReadDone
  split
  · dsimp only
    split
    · unfold takeRead
      split
      · exact rail_takeHeader _ _
      · rw [rail_readerGo, rail_takeEvents]
    · exact rail_readerGo _
  · rfl

theorem rail_reread : leavesRail reread := by
  intro s
  unfold reread
  split
  · split
    · exact readerOnly_rail (readerOnly_readHeader _ s)
    · rfl
  · rfl

theorem rail_admitNote (a : Admission) (e : QueueEntry) : leavesRail (admitNote a e) := by
  intro s
  cases a with
  | dropped => exact rail_handRecord _ s
  | admitted | merged | deferred => rfl

theorem rail_admissionPass (bound : Nat) :
    ∀ (l : List QueueEntry) (s : State), (admissionPass bound l s).2.rail = s.rail
  | [], _ => rfl
  | e :: es, s => by
    unfold admissionPass
    split
    · exact (rail_admissionPass bound es _).trans (rail_admitNote _ _ s)
    · exact rail_admissionPass bound es s

theorem rail_admitQueue (n : Nat) : leavesRail (admitQueue n) := fun s => rail_admissionPass _ _ s

theorem rail_enterWaiting : leavesRail enterWaiting := by
  intro s
  rw [enterWaiting, rail_notice, rail_setPlay]

theorem rail_advance : leavesRail advance := by
  intro s
  unfold advance promptRule
  dsimp only
  split
  · exact rail_admitQueue _ _
  · exact (rail_enterWaiting _).trans (rail_admitQueue _ _)

theorem rail_clockStep : leavesRail clockStep := by
  intro s
  unfold clockStep
  split
  · split
    · rw [rail_notice, rail_setPlay]
    · exact rail_advance s
  · exact rail_admitQueue _ s
  all_goals rfl

theorem rail_restorePlayback (a : Anchor) : leavesRail (restorePlayback a) := by
  intro s
  unfold restorePlayback
  dsimp only
  rw [rail_evaluateNow]
  split
  · exact rail_sostenutoFall _ _ _
  · rfl

theorem rail_jumpTo (a : Anchor) : leavesRail (jumpTo a) := by
  intro s
  unfold jumpTo
  dsimp only
  rw [rail_readerGo, rail_setPlay]
  exact rail_restorePlayback a s

theorem rail_dropWork : leavesRail dropWork := fun s => rail_fadePlayback (flush s)

theorem rail_loopJump : leavesRail loopJump := by
  intro s
  unfold loopJump
  dsimp only
  split
  · exact (rail_jumpTo _ _).trans (rail_dropWork _)
  · exact (rail_startSeek _ _ _).trans (rail_dropWork _)

theorem rail_dispatchMark (e : QueueEntry) : leavesRail (dispatchMark e) := by
  intro s
  unfold dispatchMark
  split
  · split
    · rfl
    · split
      · split
        · exact rail_loopJump s
        · rfl
      · rfl
  · rfl

theorem rail_guideNote (e : QueueEntry) : leavesRail (guideNote e) := by
  intro s
  unfold guideNote
  split
  · rfl
  · dsimp only
    split
    · rw [rail_enterWaiting, rail_admitNote]
    · exact rail_admitNote _ _ s

theorem rail_dispatchEvent (e : QueueEntry) : leavesRail (dispatchEvent e) := by
  intro s
  unfold dispatchEvent
  split
  · unfold dispatchNote
    split
    · exact rail_startRequest _ _ _ s
    · exact rail_guideNote e s
    · rfl
  · exact rail_releaseVoice _ _ s
  · exact rail_playbackPedal _ _ s
  · exact rail_dispatchMark e s
  · exact rail_endPlayback _ _

theorem rail_resumeReader : leavesRail resumeReader := by
  intro s
  unfold resumeReader
  split
  · exact rail_readerGo _
  · rfl

theorem rail_dispatchMany : ∀ (n : Nat) (s : State), (dispatchMany n s).2.rail = s.rail
  | 0, _ => rfl
  | n + 1, s => by
    unfold dispatchMany
    split
    · rename_i e es _
      split
      · have h : (resumeReader (dispatchEvent e { s with scr.queue := es })).rail = s.rail :=
          (rail_resumeReader _).trans (rail_dispatchEvent _ _)
        dsimp only
        split
        · exact (rail_dispatchMany n _).trans h
        · exact h
      · rfl
    · rfl

theorem rail_voiceBlock : leavesRail voiceBlock := by
  intro s
  unfold voiceBlock
  dsimp only
  rw [rail_noticeIf, pruneOrder]

theorem rail_soundBlock : leavesRail soundBlock := by
  intro s
  have hm (vs : List Voice) (t : State) : (mixBlock vs t).rail = t.rail := by
    unfold mixBlock
    dsimp only
    split
    · exact rail_noticeIf _ _ _
    · rfl
  rw [soundBlock, hm, voicesOnly_rail (voicesOnly_fetchNext _), rail_voiceBlock]

theorem rail_audioWork (n : Nat) : leavesRail (audioWork n) := by
  intro s
  have h : (soundBlock (dispatchMany n (clockStep (reread s))).2).rail = s.rail := by
    rw [rail_soundBlock, rail_dispatchMany, rail_clockStep, rail_reread]
  unfold audioWork
  dsimp only
  split
  · exact (rail_dispatchMany _ _).trans h
  · exact h

/-! ## The PLAY orders -/

theorem rail_startOrder (seq : Half) : leavesRail (startOrder seq) := by
  intro s
  unfold startOrder
  dsimp only
  rw [rail_setPlay]
  exact congrArg Calm.rail (clearPlayback_calm s)

theorem rail_stopPlayback : leavesRail stopPlayback := fun s => congrArg Calm.rail (stopPlayback_calm s)

theorem rail_stopOrder (seq : Half) : leavesRail (stopOrder seq) := rail_stopPlayback

theorem rail_pauseOrder (seq : Half) : leavesRail (pauseOrder seq) := by
  intro s
  unfold pauseOrder
  split
  · rw [rail_answer, rail_setPlay]
    exact rail_of_calm (dropPlayback_calm s)
  · rfl

theorem rail_resumeOrder (seq : Half) : leavesRail (resumeOrder seq) := by
  intro s
  unfold resumeOrder
  split
  · exact rail_setPlay _ s
  · rfl

theorem rail_tracksOrder (seq : Half) (arg : Word) : leavesRail (tracksOrder seq arg) := by
  intro s
  unfold tracksOrder
  split <;> rfl

theorem rail_seekOrder (seq : Half) (arg : Word) : leavesRail (seekOrder seq arg) := by
  intro s
  unfold seekOrder
  split
  · rfl
  · rw [rail_startSeek, rail_dropWork]

theorem rail_loopOrder (seq : Half) (arg : Word) : leavesRail (loopOrder seq arg) := by
  intro s
  unfold loopOrder
  split
  · rfl
  · split <;> rfl

theorem rail_skipOrder (seq : Half) : leavesRail (skipOrder seq) := by
  intro s
  unfold skipOrder
  split
  · rfl
  · dsimp only
    rw [rail_answer, readerOnly_rail (readerOnly_testWaiting _), rail_handRecords]

/-! ## JWR -/

theorem rail_recordWritten : leavesRail recordWritten := by
  intro s
  unfold recordWritten
  split
  · exact rail_of_calm (quiet_evaluateLevel _).calm
  all_goals rfl

theorem rail_markWritten : leavesRail markWritten := by
  intro s
  unfold markWritten
  split
  · dsimp only
    split
    · exact (rail_of_calm (quiet_placeRecord _ _ _).calm).trans (rail_answerOwed _ _ _ _)
    · exact rail_answerOwed _ _ _ _
  all_goals rfl

/-! ## Adoptions -/

theorem rail_trimReserve (n : Nat) : leavesRail (trimReserve n) := fun s => rail_of_calm (trimReserve_calm n s)

theorem rail_takePage : leavesRail takePage := by
  intro s
  rw [takePage, rail_noticeIf]

theorem rail_adoptOffs (running : Bool) (l : List KeyEvent) : leavesRail (adoptOffs running l) := by
  intro s
  unfold adoptOffs
  split
  · exact rail_takeOffs l s
  · exact rail_handRecords _ s

theorem rail_adoptContexts : leavesRail adoptContexts := by
  intro s
  rw [adoptContexts, rail_evaluateNow, rail_evaluateNow]

theorem rail_adoptOrder (c : AdoptionChoice) {offs : State → State} (h : leavesRail offs) :
    leavesRail (adoptOrder c offs) := by
  intro s
  unfold adoptOrder
  split <;> simp only [rail_trimReserve _ _, rail_adoptContexts _, h _]

theorem rail_setThreshold : leavesRail setThreshold := by
  intro s
  unfold setThreshold
  split <;> rfl

theorem rail_adoptThreshold : leavesRail adoptThreshold := by
  intro s
  unfold adoptThreshold
  dsimp only
  split
  · exact rail_setThreshold s
  · exact (rail_of_calm (quiet_evaluateLevel _).calm).trans (rail_setThreshold s)

theorem rail_completeAdoption (c : AdoptionChoice) : leavesRail (completeAdoption c) := by
  intro s
  unfold completeAdoption
  dsimp only
  rw [pushOrd_rail, rail_reorderHand, rail_adoptThreshold]
  have h : (adoptOrder c (adoptOffs s.running (eventsOf (adoptKeys (loadedCal s) s))) (takePage s)).rail = s.rail := by
    rw [rail_adoptOrder c (rail_adoptOffs _ _), rail_takePage]
  split <;> exact h

theorem rail_adoptionEnded : leavesRail adoptionEnded := by
  intro s
  unfold adoptionEnded
  dsimp only
  split <;> split <;> rfl

theorem rail_goOn : leavesRail goOn := by
  intro s
  unfold goOn
  dsimp only
  rw [pushOrds_rail]
  split
  · rfl
  · exact rail_of_calm (regionFaultAt_calm _ _ s)

theorem rail_pageRead : leavesRail pageRead := by
  intro s
  unfold pageRead
  split
  · dsimp only
    split <;> exact rail_adoptionEnded _
  · exact rail_goOn s

/-! ## Triggers -/

theorem rail_triggerAll (l : List Watched) : leavesRail (triggerAll l) := by
  intro s
  obtain ⟨o, h⟩ := triggerAll_eq l s
  rw [h]

theorem rail_settle : leavesRail settle := fun s => readerOnly_rail (readerOnly_settle s)

end Sys2Proof.Machine.RailProofs
end

section
/-!
SUPPORT. RLC's work at a scan completion depends on what RLC reads alone, and stands in the scan as R72 says: before KSC's work, or after it.
-/

namespace Sys2Proof.Machine.RailProofs

/-! ## RLC's work depends on what it reads -/

/-- What an operation leaves of what RLC reads depends on what RLC reads alone. -/
def readsRail (f : State → State) : Prop := ∀ s t : State, railSight s = railSight t → railSight (f s) = railSight (f t)

/-- An operation on the rail alone, whose rail record follows from the rail record and the settings. -/
theorem readsRail_of_rail {f : State → State} (ho : ∀ s, railOnly s (f s))
    (hr : ∀ s t, s.rail = t.rail → s.settings = t.settings → (f s).rail = (f t).rail) : readsRail f := by
  have hf (s : State) : railSight (f s) = { railSight s with rail := (f s).rail } := by
    obtain ⟨r, h⟩ := ho s
    have e : (f s).rail = r := congrArg Calm.rail h
    rw [e]
    exact (congrArg (fun c => (calmSight c).rlc) h).trans rfl
  intro s t h
  rw [hf s, hf t, h, hr s t (congrArg RailSight.rail h) (congrArg RailSight.settings h)]

theorem readsRail.comp {f g : State → State} (hf : readsRail f) (hg : readsRail g) : readsRail fun s => g (f s) :=
  fun s t h => hg _ _ (hf s t h)

/-- What such an operation on the rail alone leaves of the sight depends on the sight alone. -/
theorem readsRail.sight_congr {f : State → State} (h : readsRail f) (ho : ∀ s, railOnly s (f s)) {s t : State}
    (hs : sight s = sight t) : sight (f s) = sight (f t) := by
  have hf (s : State) : sight (f s) = { sight s with rlc := railSight (f s) } := by
    obtain ⟨r, hc⟩ := ho s
    have e : railSight (f s) = { railSight s with rail := r } := (congrArg (fun c => (calmSight c).rlc) hc).trans rfl
    rw [e]
    exact (congrArg calmSight hc).trans rfl
  rw [hf s, hf t, hs, h s t (railSight_of_sight hs)]

theorem limitsOf_congr {s t : State} (hr : s.rail = t.rail) (hs : s.settings = t.settings) : limitsOf s = limitsOf t := by
  rw [limitsOf, limitsOf, hr, hs]

theorem request_rail_congr (target : Target) (src : Source) {s t : State} (hr : s.rail = t.rail)
    (hs : s.settings = t.settings) : (request target src s).1.rail = (request target src t).1.rail := by
  unfold request
  rw [hr]
  cases t.rail.state with
  | stalled => exact hr
  | retracted | engaged | part =>
    dsimp only
    split
    · exact hr
    · split
      · simp [startMove, hr, hs]
      · exact hr
  | engaging | releasing | paused =>
    dsimp only
    split <;> simp
  | reversing => rfl

theorem endShort_rail_congr (c : StopCause) {s t : State} (hr : s.rail = t.rail) :
    (endShort c s).rail = (endShort c t).rail := by
  unfold endShort
  rw [hr]
  dsimp only
  split <;> simp [hr]

theorem readsRail_setQuiet (q : Bool) : readsRail (setQuiet q) := by
  refine readsRail_of_rail (railOnly_setQuiet q) fun s t hr _ => ?_
  unfold setQuiet
  dsimp only
  rw [hr]
  split
  · split <;> simp
  · split <;> simp
  · split <;> simp
  · rfl

theorem readsRail_quietStep (keys : Vector KeyRec 88) (struck : Bool) : readsRail (quietStep keys struck) := by
  intro s t h
  have hr : s.rail = t.rail := congrArg RailSight.rail h
  have hc : s.cap.running = t.cap.running := congrArg RailSight.capture h
  have hq (n : Nat) : quietNow keys n s.cap = quietNow keys n t.cap := by rw [quietNow, quietNow, hc]
  have hw (n : Nat) : railSight { s with rail.settle := n } = railSight { t with rail.settle := n } := by
    have e := congrArg (fun v : RailSight => { v with rail.settle := n }) h
    exact e
  unfold quietStep
  dsimp only
  rw [hq, hr]
  refine readsRail_setQuiet _ _ _ ?_
  have e := hw (settleAfter struck t.rail.settle)
  rw [hr] at e
  exact e

theorem readsRail_sampleStep (l : Lines) : readsRail (sampleStep l) := by
  refine readsRail_of_rail (railOnly_sampleStep l) fun s t hr hs => ?_
  unfold sampleStep
  rw [hr, hs]
  dsimp only
  split
  · exact request_rail_congr _ _ rfl rfl
  · rfl

theorem readsRail_switchStep : readsRail switchStep := by
  refine readsRail_of_rail railOnly_switchStep fun s t hr _ => ?_
  unfold switchStep
  rw [hr]
  split <;> simp [hr]

theorem readsRail_arrivalStep : readsRail arrivalStep := by
  refine readsRail_of_rail railOnly_arrivalStep fun s t hr _ => ?_
  unfold arrivalStep
  rw [hr]
  split <;> simp [hr]

theorem readsRail_driftStep : readsRail driftStep := by
  refine readsRail_of_rail railOnly_driftStep fun s t hr _ => ?_
  unfold driftStep
  rw [hr]
  split <;> simp [hr]

theorem readsRail_countStep : readsRail countStep := by
  refine readsRail_of_rail railOnly_countStep fun s t hr hs => ?_
  have hl := limitsOf_congr hr hs
  unfold countStep countTravel countPause countDwell endDwell
  rw [hr, hl]
  dsimp only
  split
  · split <;> simp
  · split <;> simp
  · split
    · exact endShort_rail_congr _ hr
    · rfl
  · split <;> simp
  all_goals exact hr

/-- R86: RLC's work at a scan completion reads nothing but the sight. -/
theorem readsRail_railScan (l : Lines) (keys : Vector KeyRec 88) (struck : Bool) :
    readsRail (railScan l keys struck) := by
  have ht : readsRail (tickSteps l) :=
    ((((readsRail_sampleStep l).comp readsRail_switchStep).comp readsRail_arrivalStep).comp
      readsRail_driftStep).comp readsRail_countStep
  intro s t h
  have hq := readsRail_quietStep keys struck s t h
  have hn : s.scanCount = t.scanCount := congrArg RailSight.scanCount h
  unfold railScan
  dsimp only
  rw [hn]
  split
  · exact ht _ _ hq
  · exact hq

theorem readsRail_restartSettle : readsRail restartSettle := by
  refine readsRail_of_rail (fun s => railOnly_with _ s) fun s t hr hs => ?_
  rw [restartSettle, restartSettle, limitsOf_congr hr hs, hr, hs]

theorem readsRail_settleStrikes (events : List KeyEvent) : readsRail (settleStrikes events) := by
  intro s t h
  unfold settleStrikes
  split
  · exact readsRail_restartSettle s t h
  · exact h

/-! ## The inputs of a scan (R68) -/

theorem request_inputs (target : Target) (src : Source) (s : State) :
    (request target src s).1.rail.inputs = s.rail.inputs := by
  obtain e | ⟨_, e⟩ | e | ⟨_, e⟩ | ⟨_, e⟩ | ⟨_, e⟩ := request_cases target src s <;> rw [e]
  · rw [startMove, railTo_rail]
  · rw [railTo_rail]

theorem setQuiet_inputs (q : Bool) (s : State) : (setQuiet q s).rail.inputs = s.rail.inputs := by
  unfold setQuiet
  dsimp only
  split
  · split <;> simp
  · split <;> simp
  · split <;> simp
  · rfl

theorem quietStep_inputs (keys : Vector KeyRec 88) (struck : Bool) (s : State) :
    (quietStep keys struck s).rail.inputs = s.rail.inputs := setQuiet_inputs _ _

theorem sampleStep_inputs (l : Lines) (s : State) : (sampleStep l s).rail.inputs = s.rail.inputs.sample l := by
  unfold sampleStep
  dsimp only
  split
  · exact request_inputs _ _ _
  · rfl

theorem switchStep_inputs (s : State) : (switchStep s).rail.inputs = s.rail.inputs := by
  unfold switchStep
  split <;> simp

theorem arrivalStep_inputs (s : State) : (arrivalStep s).rail.inputs = s.rail.inputs := by
  unfold arrivalStep
  split <;> simp

theorem driftStep_inputs (s : State) : (driftStep s).rail.inputs = s.rail.inputs := by
  unfold driftStep
  split <;> simp

theorem countStep_inputs (s : State) : (countStep s).rail.inputs = s.rail.inputs := by
  unfold countStep countTravel countPause countDwell endDwell
  dsimp only
  split
  · split <;> simp
  · split <;> simp
  · split
    · exact endShort_inputs _ s
    · rfl
  · split <;> simp
  all_goals rfl

/-- R86 step 2: a rail tick samples the inputs, whatever else it does. -/
theorem railScan_inputs {s : State} (l : Lines) (keys : Vector KeyRec 88) (struck : Bool)
    (h : isTick s.scanCount = true) : (railScan l keys struck s).rail.inputs = s.rail.inputs.sample l := by
  unfold railScan tickSteps
  dsimp only
  rw [if_pos h, countStep_inputs, driftStep_inputs, arrivalStep_inputs, switchStep_inputs, sampleStep_inputs,
    quietStep_inputs]

/-! ## RLC's place in a scan (R72, R99, log 4) -/

section
variable {context : List KeyEvent → State → State} {rail : State → State} {contextAt railAt : Nat}

/-- Past RLC's place VCE's work on the events leaves the sight alone. -/
theorem sight_takeLive_past (hc : ∀ left s, sight (context left s) = sight s) :
    ∀ (es : List KeyEvent) (i : Nat) (s : State), railAt < i →
      sight (takeLive context rail contextAt railAt i es s) = sight s
  | [], i, s, h => by
    unfold takeLive
    dsimp only
    rw [if_neg (Nat.not_le.mpr h)]
    split
    · exact hc _ s
    · rfl
  | e :: es, i, s, h => by
    unfold takeLive
    dsimp only
    rw [sight_takeLive_past hc es (i + 1) _ (Nat.lt_succ_of_lt h), sight_deliver, if_neg (Nat.ne_of_gt h)]
    split
    · exact hc _ s
    · rfl

/-- RLC's work falls once among the events, and nothing else that VCE takes changes the sight. -/
theorem sight_takeLive (hc : ∀ left s, sight (context left s) = sight s) (hr : ∀ s t, sight s = sight t → sight (rail s) = sight (rail t)) :
    ∀ (es : List KeyEvent) (i : Nat) (s : State), i ≤ railAt →
      sight (takeLive context rail contextAt railAt i es s) = sight (rail s)
  | [], i, s, h => by
    unfold takeLive
    dsimp only
    rw [if_pos h]
    refine hr _ _ ?_
    split
    · exact hc _ s
    · rfl
  | e :: es, i, s, h => by
    have hctx : sight (if i = contextAt then context (e :: es) s else s) = sight s := by
      split
      · exact hc _ s
      · rfl
    unfold takeLive
    dsimp only
    by_cases hi : i = railAt
    · rw [sight_takeLive_past hc es (i + 1) _ (by omega), sight_deliver, if_pos hi]
      exact hr _ _ hctx
    · rw [sight_takeLive hc hr es (i + 1) _ (by omega), if_neg hi]
      exact hr _ _ ((sight_deliver _ _).trans hctx)

end

/-! ## The scan completion -/

/-- The key steps of a scan of the run (R9, R39). -/
def keySteps (s : State) : Vector KeyStep 88 := scanKeys (softAfter (pedalsOf (scanPedals s)) s) s

/-- The live events of a scan of the run. -/
def scanEvents (s : State) : List KeyEvent := eventsOf (keySteps s)

/-- RLC's work at a scan that takes it after KSC's. -/
def railAfterKeys (x : Scan) (s : State) : State → State :=
  railScan x.lines (keysOf (keySteps s)) ((scanEvents s).any KeyEvent.isOn)

/-- R72: RLC's work at a scan that takes it before KSC's. -/
def railBeforeKeys (x : Scan) (s : State) : State := if x.choice.railFirst then railScan x.lines s.keys false s else s

/-- KSC, PDU and RLC's strikes at a scan (R71). -/
def sensed (x : Scan) (s : State) : State :=
  settleStrikes (scanEvents s)
    (noticeIf (faultOf (keySteps s) || pedalFault (scanPedals s)) .keyFault
      { railBeforeKeys x s with keys := keysOf (keySteps s), pedals := pedalsOf (scanPedals s) })

/-- RLC's work where the scan takes it among the live events. -/
def railAmongEvents (x : Scan) (s : State) : State → State :=
  if x.choice.railFirst || x.choice.railAfterCapture then id else railAfterKeys x s

/-- A scan of the run up to CAP's work. -/
def beforeCapture (x : Scan) (s : State) : State :=
  takeStrikes (permuteBy x.choice.guideOrder (scanEvents s))
    (decidePedals s.scanCount
      (takeLive
        (fun left => liveContext (mixKeys x.choice.riseOld (liveNoteOn s.keys) (liveNoteOn (keysOf (keySteps s))))
          (fallKeys left (liveNoteOn s.keys) (liveNoteOn (keysOf (keySteps s)))))
        (railAmongEvents x s) x.choice.contextAt x.choice.railAt 0
        (permuteBy x.choice.voiceOrder (scanEvents s))
        (handRecords ((scanEvents s).map (KeyEvent.record s.scanCount)) (sensed x s))))

/-- RLC's work where the scan takes it after CAP's. -/
def railAtEnd (x : Scan) (s t : State) : State :=
  if x.choice.railAfterCapture && !x.choice.railFirst then railAfterKeys x s t else t

/-- The parts of a scan of the run, in order. -/
theorem calm_runScan (x : Scan) (s : State) :
    calm (runScan x s) = calm (railAtEnd x s (captureScan (beforeCapture x s))) := by
  have h : runScan x s =
      (fun t => if isRefresh s.scanCount then callRefreshes x.choice s.scanCount t else t)
        (reorderHand s.jwr.hand.length x.choice.journalOrder (railAtEnd x s (captureScan (beforeCapture x s)))) := by
    simp only [runScan, railAtEnd, beforeCapture, sensed, railBeforeKeys, railAfterKeys, scanEvents, keySteps,
      railAmongEvents]
  rw [h]
  dsimp only
  split
  · rw [calm_callRefreshes, reorderHand_calm]
  · rw [reorderHand_calm]

/-! ## What a scan leaves of the rail (R71, R72) -/

theorem railOnly_railAfterKeys (x : Scan) (s t : State) : railOnly t (railAfterKeys x s t) := railOnly_railScan _ _ _ t

theorem railOnly_railBeforeKeys (x : Scan) (s : State) : railOnly s (railBeforeKeys x s) := by
  unfold railBeforeKeys
  split
  · exact railOnly_railScan _ _ _ s
  · exact railOnly.refl s

theorem railOnly_settleStrikes (l : List KeyEvent) (s : State) : railOnly s (settleStrikes l s) := by
  unfold settleStrikes
  split
  · exact railOnly_with _ s
  · exact railOnly.refl s

theorem readsRail_railAfterKeys (x : Scan) (s : State) : readsRail (railAfterKeys x s) := readsRail_railScan _ _ _

/-- The key steps, the pedal steps and KEY_FAULT change nothing that RLC reads. -/
theorem railSight_sensed (x : Scan) (s : State) :
    railSight (sensed x s) = railSight (settleStrikes (scanEvents s) (railBeforeKeys x s)) := by
  refine readsRail_settleStrikes _ _ _ ?_
  exact (railSight_of_sight (sight_of_calm (noticeIf_calm _ _ _))).trans (railSight_with _ _ _)

/-- The sight of a scan up to CAP's work. -/
theorem sight_beforeCapture (x : Scan) (s : State) :
    sight (beforeCapture x s) = sight (railAmongEvents x s (sensed x s)) := by
  have hr {t u : State} (h : sight t = sight u) : sight (railAmongEvents x s t) = sight (railAmongEvents x s u) := by
    unfold railAmongEvents
    split
    · exact h
    · exact (readsRail_railAfterKeys x s).sight_congr (railOnly_railAfterKeys x s) h
  rw [beforeCapture, sight_takeStrikes, sight_decidePedals,
    sight_takeLive (fun _ _ => sight_liveContext _ _ _) (fun _ _ => hr) _ _ _ (Nat.zero_le _)]
  exact hr (sight_of_calm (handRecords_calm _ _))

theorem railOnly_railAmongEvents (x : Scan) (s t : State) : railOnly t (railAmongEvents x s t) := by
  unfold railAmongEvents
  split
  · exact railOnly.refl t
  · exact railOnly_railAfterKeys x s t

theorem railOnly_railAtEnd (x : Scan) (s t : State) : railOnly t (railAtEnd x s t) := by
  unfold railAtEnd
  split
  · exact railOnly_railAfterKeys x s t
  · exact railOnly.refl t

theorem calm_with_sensing (s : State) (ks : Vector KeyRec 88) (ps : Vector PedalRec 3) :
    calm { s with keys := ks, pedals := ps } = { calm s with keys := ks, pedals := ps } := rfl

/-- A scan up to RLC's place changes the keys, the pedals and the rail. -/
theorem calm_sensed (x : Scan) (s : State) :
    ∃ r, calm (sensed x s) =
      { calm s with rail := r, keys := keysOf (keySteps s), pedals := pedalsOf (scanPedals s) } := by
  obtain ⟨q, hq⟩ := railOnly_railBeforeKeys x s
  obtain ⟨r, hr⟩ := railOnly_settleStrikes (scanEvents s)
    (noticeIf (faultOf (keySteps s) || pedalFault (scanPedals s)) .keyFault
      { railBeforeKeys x s with keys := keysOf (keySteps s), pedals := pedalsOf (scanPedals s) })
  refine ⟨r, ?_⟩
  rw [sensed, hr, noticeIf_calm, calm_with_sensing, hq]

/-- What a scan up to CAP's work shows, but for the rail record. -/
theorem sight_beforeCapture_shown (x : Scan) (s : State) :
    ∃ r, sight (beforeCapture x s) =
      ⟨⟨r, s.settings, s.cap.running, s.scanCount⟩, keysOf (keySteps s),
        ((pedalsOf (scanPedals s))[(2 : Fin 3)].mode, (pedalsOf (scanPedals s))[(2 : Fin 3)].sensor.depth),
        s.cap.scans⟩ := by
  obtain ⟨q, hq⟩ := calm_sensed x s
  obtain ⟨r, hr⟩ := sight_of_railOnly (railOnly_railAmongEvents x s (sensed x s))
  refine ⟨r, ?_⟩
  rw [sight_beforeCapture, hr, sight, hq]
  rfl

theorem capturesOn_beforeCapture (x : Scan) {s : State} (h : capturesOn s) : capturesOn (beforeCapture x s) := by
  obtain ⟨r, hb⟩ := sight_beforeCapture_shown x s
  refine capturesOn_of_sight ?_ ?_ h
  · rw [hb]
    rfl
  · rw [hb]
    rfl

/-- R72: at a scan that takes RLC's evaluation before KSC's work, RLC's work and the strikes alone touch the rail. -/
theorem runScan_rail_first {x : Scan} {s : State} (h : x.choice.railFirst = true) :
    (runScan x s).rail = (settleStrikes (scanEvents s) (railScan x.lines s.keys false s)).rail := by
  have hend (t : State) : railAtEnd x s t = t := by simp [railAtEnd, h]
  have hmid : railAmongEvents x s = id := by simp [railAmongEvents, h]
  have hbefore : railBeforeKeys x s = railScan x.lines s.keys false s := by simp [railBeforeKeys, h]
  calc (runScan x s).rail = (captureScan (beforeCapture x s)).rail := by rw [rail_of_calm (calm_runScan x s), hend]
    _ = (beforeCapture x s).rail := rail_captureScan _
    _ = (sensed x s).rail := by rw [rail_of_sight (sight_beforeCapture x s), hmid, id_eq]
    _ = (settleStrikes (scanEvents s) (railBeforeKeys x s)).rail := rail_of_railSight (railSight_sensed x s)
    _ = _ := by rw [hbefore]

/-- R72: at a scan that takes RLC's evaluation after KSC's work, the rail is what RLC's work makes of the strikes' restart; where CAP's work comes first and ends no capture, that changes nothing RLC reads. -/
theorem runScan_rail_after {x : Scan} {s : State} (h : x.choice.railFirst = false) :
    ∃ y : State, (runScan x s).rail = (railAfterKeys x s y).rail
      ∧ y.rail = (settleStrikes (scanEvents s) s).rail ∧ y.scanCount = s.scanCount
      ∧ (capturesOn s → railSight y = railSight (settleStrikes (scanEvents s) s)) := by
  have hsensed : railSight (sensed x s) = railSight (settleStrikes (scanEvents s) s) := by
    have hb : railBeforeKeys x s = s := by simp [railBeforeKeys, h]
    rw [railSight_sensed, hb]
  have hcount : (sensed x s).scanCount = s.scanCount :=
    (scanCount_of_railSight hsensed).trans (railOnly_scanCount (railOnly_settleStrikes _ s))
  have hcalm := rail_of_calm (calm_runScan x s)
  cases hc : x.choice.railAfterCapture with
  | false =>
    have hend (t : State) : railAtEnd x s t = t := by simp [railAtEnd, hc]
    have hmid : railAmongEvents x s = railAfterKeys x s := by simp [railAmongEvents, h, hc]
    refine ⟨sensed x s, ?_, rail_of_railSight hsensed, hcount, fun _ => hsensed⟩
    rw [hcalm, hend, rail_captureScan, rail_of_sight (sight_beforeCapture x s), hmid]
  | true =>
    have hend (t : State) : railAtEnd x s t = railAfterKeys x s t := by simp [railAtEnd, h, hc]
    have hmid : railAmongEvents x s = id := by simp [railAmongEvents, hc]
    have hbefore : sight (beforeCapture x s) = sight (sensed x s) := by rw [sight_beforeCapture, hmid, id_eq]
    refine ⟨captureScan (beforeCapture x s), by rw [hcalm, hend], ?_, ?_, fun hon => ?_⟩
    · exact ((rail_captureScan _).trans (rail_of_sight hbefore)).trans (rail_of_railSight hsensed)
    · exact ((captureOnly_scanCount (captureOnly_captureScan _)).trans
        (scanCount_of_railSight (railSight_of_sight hbefore))).trans hcount
    · have hbr : railSight (beforeCapture x s) = railSight (sensed x s) := railSight_of_sight hbefore
      rw [(captureScan_goesOn (capturesOn_beforeCapture x hon)).1, hbr, hsensed]

/-- A scan that ends no capture leaves the key steps in the key table, and the soft pedal as its step left it. -/
theorem runScan_shows (x : Scan) {s : State} (h : capturesOn s) :
    (runScan x s).keys = keysOf (keySteps s)
      ∧ (runScan x s).pedals[(2 : Fin 3)].mode = (pedalsOf (scanPedals s))[(2 : Fin 3)].mode
      ∧ (runScan x s).pedals[(2 : Fin 3)].sensor.depth = (pedalsOf (scanPedals s))[(2 : Fin 3)].sensor.depth := by
  obtain ⟨r, hb⟩ := sight_beforeCapture_shown x s
  obtain ⟨_, hk, hp⟩ := captureScan_goesOn (capturesOn_beforeCapture x h)
  obtain ⟨q, he⟩ := railOnly_railAtEnd x s (captureScan (beforeCapture x s))
  have hc := (calm_runScan x s).trans he
  have hkeys : (runScan x s).keys = (captureScan (beforeCapture x s)).keys := congrArg Calm.keys hc
  have hpedals : (runScan x s).pedals = (captureScan (beforeCapture x s)).pedals := congrArg Calm.pedals hc
  have hsoft := congrArg Sight.soft hb
  rw [hkeys, hpedals, hk, hp]
  exact ⟨congrArg Sight.keys hb, congrArg Prod.fst hsoft, congrArg Prod.snd hsoft⟩

end Sys2Proof.Machine.RailProofs
end

section
/-!
The rows that name a special scan completion (log 2), and what every scan completion leaves of the rail (R71, R72, R86).
-/

namespace Sys2Proof.Machine.RailProofs

theorem settleStrikes_none {l : List KeyEvent} (h : l.any KeyEvent.isOn = false) (s : State) :
    settleStrikes l s = s := by
  simp [settleStrikes, h]

theorem settleStrikes_some {l : List KeyEvent} (h : l.any KeyEvent.isOn = true) (s : State) :
    settleStrikes l s = restartSettle s := by
  simp [settleStrikes, h]

theorem settleStrikes_sound (l : List KeyEvent) : keepsSound (settleStrikes l) := by
  intro s h
  unfold settleStrikes
  split
  · exact h
  · exact h

theorem settleStrikes_inputs (l : List KeyEvent) (s : State) : (settleStrikes l s).rail.inputs = s.rail.inputs := by
  unfold settleStrikes
  split <;> rfl

/-- R67: a scan of the run keeps the rail sound. -/
theorem runScan_sound (x : Scan) : keepsSound (runScan x) := by
  intro s h
  cases hf : x.choice.railFirst with
  | true =>
    rw [runScan_rail_first hf]
    exact settleStrikes_sound _ _ (railScan_sound _ _ _ s h)
  | false =>
    obtain ⟨y, hy, hrail, _⟩ := runScan_rail_after (s := s) hf
    have hs : y.rail.sound := by
      rw [hrail]
      exact settleStrikes_sound _ s h
    rw [hy, railAfterKeys]
    exact railScan_sound _ _ _ y hs

/-- R68, R86: a scan of the run that is a rail tick samples the inputs once. -/
theorem runScan_inputs (x : Scan) {s : State} (h : isTick s.scanCount = true) :
    (runScan x s).rail.inputs = s.rail.inputs.sample x.lines := by
  cases hf : x.choice.railFirst with
  | true => rw [runScan_rail_first hf, settleStrikes_inputs, railScan_inputs _ _ _ h]
  | false =>
    obtain ⟨y, hy, hrail, hcount, _⟩ := runScan_rail_after (s := s) hf
    rw [hy, railAfterKeys, railScan_inputs _ _ _ (hcount ▸ h), hrail, settleStrikes_inputs]

/-! ## The strikes of a scan -/

theorem keySteps_at (s : State) (k : Fin 88) :
    (keySteps s)[k] = scanKey s.settings s.cal[keyChannel k] s.scanCount k
      (softAfter (pedalsOf (scanPedals s)) s) s.raw[keyChannel k] s.keys[k] := by
  simp [keySteps, scanKeys]

/-- R71: a scan has a strike when some key's step is a NOTE_ON. -/
theorem any_isOn_iff (s : State) :
    (scanEvents s).any KeyEvent.isOn = true ↔
      ∃ (k : Fin 88) (vel : Nat) (rep : Bool), ((keySteps s)[k]).event = some (.on vel rep) := by
  rw [List.any_eq_true]
  constructor
  · rintro ⟨e, he, hon⟩
    simp only [scanEvents, eventsOf, List.mem_filterMap, Option.map_eq_some_iff] at he
    obtain ⟨k, _, kind, hk, rfl⟩ := he
    cases kind with
    | on vel rep => exact ⟨k, vel, rep, hk⟩
    | off cal => cases hon
  · rintro ⟨k, vel, rep, hk⟩
    refine ⟨⟨k, .on vel rep⟩, ?_, rfl⟩
    simp only [scanEvents, eventsOf, List.mem_filterMap, Option.map_eq_some_iff]
    exact ⟨k, List.mem_finRange k, _, hk, rfl⟩

/-! ## The scan completion of a run -/

/-- What a scan completion of the run begins with: the values, the count and the copies taken before it. -/
def scanStart (x : Scan) (s : State) : State :=
  { copiesBefore x.choice (s.scanCount + 1) (scanValues x s) with scanCount := s.scanCount + 1 }

theorem scanWork_running {s : State} (x : Scan) (h : s.running = true) : scanWork x s = runScan x (scanStart x s) :=
  if_pos h

theorem scanWork_stopped {s : State} (x : Scan) (h : s.running = false) : scanWork x s = scanValues x s :=
  if_neg (by simp [scanValues, h])

theorem calm_scanStart (x : Scan) (s : State) :
    calm (scanStart x s) = { calm s with
      raw := scanRaw x.conv, lines := x.lines, muxAddress := 0, scanCount := s.scanCount + 1 } := by
  have h : calm (scanStart x s) =
      { calm (copiesBefore x.choice (s.scanCount + 1) (scanValues x s)) with scanCount := s.scanCount + 1 } := rfl
  rw [h, calm_copiesBefore]
  rfl

/-- R67: every scan completion keeps the rail sound. -/
theorem scanWork_sound (x : Scan) : keepsSound (scanWork x) := by
  intro s h
  cases hr : s.running with
  | true =>
    have hrail : (scanStart x s).rail = s.rail := congrArg Calm.rail (calm_scanStart x s)
    rw [scanWork_running x hr]
    exact runScan_sound x _ (hrail ▸ h)
  | false =>
    rw [scanWork_stopped x hr]
    exact h

theorem scanWork_inputs {x : Scan} {s : State} (h : isRailTick s = true) :
    (scanWork x s).rail.inputs = s.rail.inputs.sample x.lines := by
  obtain ⟨hr, ht⟩ : s.running = true ∧ isTick (s.scanCount + 1) = true := by simpa [isRailTick] using h
  have hrail : (scanStart x s).rail = s.rail := congrArg Calm.rail (calm_scanStart x s)
  rw [scanWork_running x hr, runScan_inputs x ht, hrail]

/-- The LIVE soft depth of a scan's touches, by the soft pedal's mode and depth after it (R20, R39). -/
theorem softAfter_eq (ps : Vector PedalRec 3) (s : State) :
    softAfter ps s = if ps[(2 : Fin 3)].mode = .frozen then s.live.soft else ps[(2 : Fin 3)].sensor.depth := rfl

/-- R71: whether the scan completion `x` makes a NOTE_ON, where the soft pedal's mode and depth after it are those of `u`. -/
def strikesAt (x : Scan) (s u : State) : Prop :=
  ∃ (k : Fin 88) (vel : Nat) (rep : Bool),
    (scanKey s.settings s.cal[keyChannel k] (s.scanCount + 1) k
      (if (u.pedals[(2 : Fin 3)]).mode = .frozen then s.live.soft else (u.pedals[(2 : Fin 3)]).sensor.depth)
      (scanRaw x.conv)[keyChannel k] s.keys[k]).event = some (.on vel rep)

section
variable {x : Scan} {s : State}

theorem capturesOn_scanStart (hon : capturesOn s) : capturesOn (scanStart x s) := by
  have hcap : (scanStart x s).cap = s.cap := congrArg Calm.cap (calm_scanStart x s)
  rw [capturesOn, hcap]
  exact hon

theorem strikes_iff (hr : s.running = true) (hon : capturesOn s) :
    (scanEvents (scanStart x s)).any KeyEvent.isOn = true ↔ strikesAt x s (scanWork x s) := by
  have hc := calm_scanStart x s
  have hset : (scanStart x s).settings = s.settings := congrArg Calm.settings hc
  have hcal : (scanStart x s).cal = s.cal := congrArg Calm.cal hc
  have hraw : (scanStart x s).raw = scanRaw x.conv := congrArg Calm.raw hc
  have hkeys : (scanStart x s).keys = s.keys := congrArg Calm.keys hc
  have hlive : (scanStart x s).live = s.live := congrArg Calm.live hc
  obtain ⟨_, hmode, hdepth⟩ := runScan_shows x (capturesOn_scanStart (x := x) hon)
  rw [any_isOn_iff, strikesAt, scanWork_running x hr, hmode, hdepth]
  simp only [keySteps_at, softAfter_eq, hset, hcal, hraw, hkeys, hlive]
  rfl

theorem railSight_scanStart : railSight (scanStart x s) = railSight { s with scanCount := s.scanCount + 1 } :=
  (congrArg (fun c => (calmSight c).rlc) (calm_scanStart x s)).trans rfl

theorem keys_scanStart : (scanStart x s).keys = s.keys := congrArg Calm.keys (calm_scanStart x s)

/-- R72: RLC's work on the keys as they stood before KSC's work. -/
theorem scanWork_rail_first (hr : s.running = true) (hf : x.choice.railFirst = true) :
    (scanWork x s).rail = (settleStrikes (scanEvents (scanStart x s))
      (railScan x.lines s.keys false { s with scanCount := s.scanCount + 1 })).rail := by
  rw [scanWork_running x hr, runScan_rail_first hf, keys_scanStart]
  exact rail_of_railSight
    (readsRail_settleStrikes _ _ _ (readsRail_railScan _ _ _ _ _ railSight_scanStart))

/-- R72: RLC's work on the keys after KSC's work, the countdown restarted first (R71). -/
theorem scanWork_rail_after (hr : s.running = true) (hon : capturesOn s) (hf : x.choice.railFirst = false) :
    (scanWork x s).rail = (railScan x.lines (scanWork x s).keys ((scanEvents (scanStart x s)).any KeyEvent.isOn)
      (settleStrikes (scanEvents (scanStart x s)) { s with scanCount := s.scanCount + 1 })).rail := by
  obtain ⟨hkeys, _⟩ := runScan_shows x (capturesOn_scanStart (x := x) hon)
  obtain ⟨y, hy, _, _, hsight⟩ := runScan_rail_after (s := scanStart x s) hf
  rw [scanWork_running x hr, hkeys, hy, railAfterKeys]
  refine rail_of_railSight (readsRail_railScan _ _ _ _ _ ?_)
  rw [hsight (capturesOn_scanStart hon)]
  exact readsRail_settleStrikes _ _ _ railSight_scanStart

end

/-! ## What the rail shows where a special scan completion happens (log 2) -/

theorem settled_shows {x : Scan} {s t : State} (h : settled x s t = true) :
    t.rail.settle = 0 ∨ (x.choice.railFirst = true ∧ s.rail.settle = 1) := by
  simp only [settled, Bool.and_eq_true, Bool.or_eq_true, beq_iff_eq] at h
  obtain ⟨_, hfirst | hzero⟩ := h
  · exact .inr hfirst
  · exact .inl hzero

theorem filterChanged_shows {i : RailInput} {s t : State} (h : filterChanged i s t = true) :
    (t.rail.inputs.get i).level = !(s.rail.inputs.get i).level := by
  simp only [filterChanged, Bool.and_eq_true, bne_iff_ne, ne_eq] at h
  exact Bool.eq_not.mpr fun e => h.2 e.symm

theorem stalledByTravel_shows {s t : State} (h : stalledByTravel s t = true) :
    t.rail.state = .stalled ∧ t.rail.fault = .travel := by
  simp only [stalledByTravel, Bool.and_eq_true, beq_iff_eq] at h
  obtain ⟨⟨_, hstate⟩, hfault⟩ := h
  exact ⟨hstate, hfault⟩

theorem endedByHold_shows {s t : State} (h : endedByHold s t = true) :
    t.rail.state.moving = false ∧ t.rail.stop = .pauseLimit := by
  simp only [endedByHold, Bool.and_eq_true, beq_iff_eq, Bool.not_eq_true'] at h
  obtain ⟨⟨_, hstate⟩, hstop⟩ := h
  exact ⟨hstate, hstop⟩

theorem dwellEnded_shows {s t : State} (h : dwellEnded s t = true) :
    t.rail.state ≠ .reversing ∧ t.rail.state.moving = true := by
  simp only [dwellEnded, Bool.and_eq_true, Bool.or_eq_true, beq_iff_eq] at h
  obtain ⟨_, (hstate | hstate) | hstate⟩ := h <;> rw [hstate] <;> exact ⟨nofun, rfl⟩

/-- Settles O26: a row that names an event of RLC at a scan is the scan completion itself (log 2), and RLC's work stands in it before KSC's work or after it (R72). -/
theorem railEventsAreScanCompletions : Obligations.RailEventsAreScanCompletions := by
  intro x s hreset
  have hscan : exec (.scanCompletion x) s = .next (finish (scanWork x s)) := by
    rw [exec_scanCompletion, act_on hreset rfl]
  refine ⟨fun hrun hrest hbottom => ⟨scanWork x s, hscan, ?_⟩, ?_, ?_, ?_, ?_, ?_, ?_⟩
  · have hon : capturesOn s := ⟨hrest, hbottom⟩
    have hiff := strikes_iff (x := x) hrun hon
    have hno (h : ¬ strikesAt x s (scanWork x s)) : (scanEvents (scanStart x s)).any KeyEvent.isOn = false := by
      simpa using fun h' => h (hiff.mp h')
    refine ⟨fun hf h => ?_, fun hf h => ?_, fun hf h => ?_, fun hf h => ?_⟩
    · rw [scanWork_rail_first hrun hf, settleStrikes_none (hno h)]
    · rw [scanWork_rail_first hrun hf, settleStrikes_some (hiff.mpr h)]
    · rw [scanWork_rail_after hrun hon hf, hno h, settleStrikes_none (hno h)]
    · rw [scanWork_rail_after hrun hon hf, hiff.mpr h, settleStrikes_some (hiff.mpr h)]
  · intro h
    exact ⟨_, (exec_settleCountdownExpiry x s).trans (act_on hreset h), hscan, by
      rw [finish_rail]
      exact settled_shows h⟩
  · intro h
    exact ⟨_, (exec_railTick x s).trans (act_on hreset h), hscan, by rw [finish_rail, scanWork_inputs h]⟩
  · intro i h
    exact ⟨_, (exec_inputFilterChange i x s).trans (act_on hreset h), hscan, by
      rw [finish_rail]
      exact filterChanged_shows h⟩
  · intro h
    exact ⟨_, (exec_travelLimitStall x s).trans (act_on hreset h), hscan, by
      rw [finish_rail]
      exact stalledByTravel_shows h⟩
  · intro h
    exact ⟨_, (exec_holdLimitExpiry x s).trans (act_on hreset h), hscan, by
      rw [finish_rail]
      exact endedByHold_shows h⟩
  · intro h
    exact ⟨_, (exec_reversalDwellEnd x s).trans (act_on hreset h), hscan, by
      rw [finish_rail]
      exact dwellEnded_shows h⟩

end Sys2Proof.Machine.RailProofs
end

section
/-!
R67 as an invariant: every command keeps the rail record sound.
-/

namespace Sys2Proof.Machine.RailProofs

/-! ## RUN (R91, R92) -/

theorem rail_mapVoices (f : Voice → Voice) : leavesRail (mapVoices f) := fun s => rail_of_calm (mapVoices_calm f s)

theorem rail_fadeAll : leavesRail fadeAll := fun s => rail_of_calm (fadeAll_calm s)

theorem runClear_sound : keepsSound runClear := by
  intro s h
  unfold runClear
  dsimp only
  refine railStop_sound _ ?_
  rw [rail_fadeAll, rail_stopPlayback, rail_stopCapture]
  exact h

theorem rail_startSound : leavesRail startSound := by
  intro s
  unfold startSound
  dsimp only
  exact rail_mapVoices _ s

theorem rail_refreshStatus (n : Word) : leavesRail (refreshStatus n) := fun s => rail_of_calm (calm_refreshStatus n s)

theorem rail_refreshView (n : Word) : leavesRail (refreshView n) := fun s => rail_of_calm (calm_refreshView n s)

/-- R92: the record that the start sequence leaves is sound, whatever it was. -/
theorem runValues_sound (l : Lines) (s : State) : (runValues l s).rail.sound := by
  have hstart : (startSound (railStart l (startSensing (startJournal { s with lines := l })))).rail.sound := by
    rw [rail_startSound]
    exact railStart_sound l _
  have hrecords (r : Record) (t : State) (h : t.rail.sound) :
      (refreshStatus 0 (refreshView 0
        { railRecordNow (handRecord r t) with running := true, start := .none })).rail.sound := by
    rw [rail_refreshStatus, rail_refreshView, railRecordNow]
    dsimp only
    rw [rail_handRecord, rail_handRecord]
    exact h
  unfold runValues
  dsimp only
  generalize startSound (railStart l (startSensing (startJournal { s with lines := l }))) = t at hstart ⊢
  split
  · exact runClear_sound _ (hrecords _ t hstart)
  · exact hrecords _ t hstart

/-! ## ORD's accesses -/

theorem rail_afterAccess (a : OrdAccess) : leavesRail (afterAccess a) := by
  intro s
  by_cases hf : ∃ n, a = .firstBlock n
  · obtain ⟨n, rfl⟩ := hf
    exact readerOnly_rail (readerOnly_takeFirstBlock n s)
  · exact rail_of_calm (quiet_afterAccess (fun n e => hf ⟨n, e⟩) s).calm

theorem rail_performWrite (a : OrdAccess) : leavesRail (performWrite a) := by
  intro s
  unfold performWrite
  split <;> rfl

theorem adoptionReadDone_sound (l : Lines) (c : AdoptionChoice) : keepsSound (adoptionReadDone l c) := by
  intro s h
  unfold adoptionReadDone
  split
  · unfold adoptionDone
    dsimp only
    split
    · exact runValues_sound l _
    · rw [rail_adoptionEnded, rail_completeAdoption, rail_afterAccess]
      exact h
  · exact h

theorem rail_pageReadDone : leavesRail pageReadDone := fun s => rail_pageRead (endOrd s)

theorem rail_pageStatusDone : leavesRail pageStatusDone := by
  intro s
  unfold pageStatusDone
  split
  · unfold pageNotice
    split <;> simp only [rail_notice, rail_performWrite _ _] <;> rfl
  · rfl

theorem rail_calTableDone : leavesRail calTableDone := by
  intro s
  unfold calTableDone
  split
  · rw [rail_tableWritten, rail_performWrite]
    rfl
  · rfl

theorem rail_answerDone : leavesRail answerDone := by
  intro s
  unfold answerDone
  split
  · rw [rail_notice, rail_performWrite]
    rfl
  · rfl

theorem rail_selectorRead : leavesRail selectorRead := fun _ => rail_of_calm (quiet_takeSelector _ _).calm

theorem rail_setSummary (v : Half) : leavesRail (setSummary v) := by
  intro s
  unfold setSummary
  split
  · rfl
  · rw [rail_of_calm (quiet_queueSummary _).calm]

theorem rail_acknowledgeRead : leavesRail acknowledgeRead := by
  intro s
  rw [acknowledgeRead, acknowledge, rail_setSummary]
  rfl

theorem rail_maskRead : leavesRail maskRead := fun _ => rfl

theorem rail_markRead : leavesRail markRead := by
  intro s
  unfold markRead
  dsimp only
  split <;> rfl

theorem rail_takeView : leavesRail takeView := by
  intro s
  unfold takeView
  split <;> rfl

theorem rail_takeStatus : leavesRail takeStatus := by
  intro s
  unfold takeStatus
  dsimp only
  split
  · rw [rail_of_calm (quiet_copyStatus _ _).calm]
  · rw [rail_of_calm (quiet_copyStatus _ _).calm]
  · rfl

/-! ## The accesses of the other requesters -/

theorem rail_endScoreRead : leavesRail endScoreRead := fun s => rail_scoreReadDone (endAccess s)

theorem rail_endBurst : leavesRail endBurst := by
  intro s
  unfold endBurst
  split
  · rw [voicesOnly_rail (voicesOnly_burstDone _ _), endAccess_rail]
  · rfl

theorem rail_endRecord : leavesRail fun s => recordWritten (endAccess s) := fun s => rail_recordWritten (endAccess s)

theorem rail_endMark : leavesRail fun s => markWritten (endAccess s) := fun s => rail_markWritten (endAccess s)

/-! ## Orders -/

theorem whenRunning_sound {slot : Slot} {seq : Half} {f : State → State} (h : keepsSound f) :
    keepsSound (whenRunning slot seq f) := by
  intro s hs
  unfold whenRunning
  split
  · exact h s hs
  · exact hs

theorem railSlot_sound (code : Nat) (seq : Half) : keepsSound (railSlot code seq) := by
  intro s h
  unfold railSlot
  split
  · exact moveOrder_sound _ _ s h
  · exact moveOrder_sound _ _ s h
  · exact permissionOrder_sound _ _ s h
  · exact permissionOrder_sound _ _ s h
  · exact permissionOrder_sound _ _ s h
  · exact clearFaultOrder_sound _ s h
  · exact h

theorem rail_playSlot (code : Nat) (seq : Half) (arg : Word) : leavesRail (playSlot code seq arg) := by
  intro s
  unfold playSlot
  split
  · exact rail_startOrder _ s
  · exact rail_stopOrder _ s
  · exact rail_pauseOrder _ s
  · exact rail_resumeOrder _ s
  · rfl
  · exact rail_tracksOrder _ _ s
  · exact rail_seekOrder _ _ s
  · exact rail_loopOrder _ _ s
  · exact rail_skipOrder _ s
  · rfl

theorem rail_calSlot (code : Nat) (seq : Half) (order : List Nat) : leavesRail (calSlot code seq order) := by
  intro s
  unfold calSlot
  split
  · exact rail_captureOrder _ _ _ s
  · exact rail_captureOrder _ _ _ s
  · exact rail_endOrder _ s
  · exact rail_abandonOrder _ s
  · rfl

theorem rail_journalSlot (code : Nat) (seq : Half) (arg : Word) : leavesRail (journalSlot code seq arg) := by
  intro s
  unfold journalSlot
  split <;> rfl

theorem orderRead_sound (slot : Slot) (order : List Nat) : keepsSound (orderRead slot order) := by
  intro s h
  refine whenRunning_sound (fun t ht => ?_) _ h
  cases slot with
  | rail => exact railSlot_sound _ _ t ht
  | play => exact (rail_playSlot _ _ _).keepsSound t ht
  | cal => exact (rail_calSlot _ _ _).keepsSound t ht
  | journal => exact (rail_journalSlot _ _ _).keepsSound t ht

/-! ## The link -/

theorem rail_presentWrite : leavesRail presentWrite := by
  intro s
  unfold presentWrite
  split <;> rfl

theorem rail_storeRead (sent : List Nib) (n : Nat) : leavesRail (storeRead sent n) := by
  intro s
  unfold storeRead
  split <;> rfl

theorem rail_storeWrite (sent : List Nib) : leavesRail (storeWrite sent) := by
  intro s
  unfold storeWrite
  split
  · exact rail_presentWrite _
  · rfl

theorem rail_readRegister (sent : List Nib) : leavesRail (readRegister sent) := by
  intro s
  unfold readRegister
  dsimp only
  split <;> rfl

theorem rail_setBank (sent : List Nib) : leavesRail (setBank sent) := by
  intro s
  unfold setBank
  dsimp only
  split
  · split <;> rfl
  · rfl

theorem writeRegister_sound (r : Byte) (v : Word) : keepsSound (writeRegister r v) := by
  intro s h
  unfold writeRegister
  split
  · unfold writeAreaRegister
    split <;> exact h
  · split
    · unfold writeControl
      split
      · exact h
      · split
        · unfold controlRun
          split <;> exact h
        · unfold controlStop
          split
          · exact runClear_sound s h
          · split <;> exact h
    · exact h

theorem regWrite_sound (sent : List Nib) : keepsSound (regWrite sent) := by
  intro s h
  unfold regWrite
  dsimp only
  split
  · exact writeRegister_sound _ _ _ h
  · exact h

theorem openByCode_sound (code : Byte) (sent : List Nib) (n : Nat) : keepsSound (openByCode code sent n) := by
  intro s h
  unfold openByCode
  split
  · exact (rail_storeRead sent n).keepsSound s h
  · split
    · exact (rail_storeWrite sent).keepsSound s h
    · split
      · exact (rail_readRegister sent).keepsSound s h
      · split
        · exact regWrite_sound sent s h
        · split
          · exact (rail_setBank sent).keepsSound s h
          · exact h

theorem rail_linkAccessDone : leavesRail linkAccessDone := by
  intro s
  unfold linkAccessDone
  split
  · dsimp only
    split
    · unfold wordWritten
      dsimp only
      rw [rail_presentWrite, rail_triggerAll]
      rfl
    · split
      · rfl
      · unfold driveWord
        dsimp only
        split <;> rfl
  · rfl

theorem resetTo_sound (store : Memory) (area : Word) (bank : BitVec 2) (mode : LinkMode) (s : State) :
    (resetTo store area bank mode s).rail.sound := reset_sound s.lines

theorem raiseLsel_sound (landed : Nat) : keepsSound (raiseLsel landed) := by
  intro s h
  unfold raiseLsel
  split
  · unfold closeWrite
    dsimp only
    split
    · exact h
    · rw [rail_triggerAll]
      exact h
  · exact h
  · exact resetTo_sound _ _ _ _ s
  all_goals exact h

theorem rail_countFrame (s : State) : (countFrame (frameStart s)).rail = s.rail := by
  have hf : (frameStart s).rail = s.rail := by
    unfold frameStart
    split <;> rfl
  unfold countFrame
  split <;> exact hf

/-! ## Commands -/

section
variable {s t : State} {f : State → State} {c : Instr}

theorem act_sound {b : Bool} (hc : exec c s = act b f s) (hf : keepsSound f) (hs : s.rail.sound)
    (h : exec c s = .next t) : t.rail.sound := by
  obtain rfl := Host.Outcome.next.inj (hc.symm.trans h)
  split
  · rw [finish_rail]
    exact hf s hs
  · exact hs

theorem whenDone_sound {e : State → Bool} (hc : exec c s = whenDone e f s) (hf : keepsSound f) (hs : s.rail.sound)
    (h : exec c s = .next t) : t.rail.sound := by
  obtain rfl := Host.Outcome.next.inj (hc.symm.trans h)
  split
  · exact hs
  · split
    · rw [finish_rail]
      exact hf s hs
    · split
      · rw [finish_rail]
        exact hf _ (rail_settle.keepsSound s hs)
      · exact hs

theorem orderAct_sound {slot : Slot} {seq : Half} (hc : exec c s = orderAct slot seq f s) (hf : keepsSound f)
    (hs : s.rail.sound) (h : exec c s = .next t) : t.rail.sound := act_sound hc (whenRunning_sound hf) hs h

theorem transact_sound {code : Byte} {sent : List Nib} {n : Nat} (hc : exec c s = transact code sent n s)
    (hs : s.rail.sound) (h : exec c s = .next t) : t.rail.sound := by
  obtain rfl := Host.Outcome.next.inj (hc.symm.trans h)
  split
  · unfold openInReset
    split <;> exact hs
  · split
    · rw [finish_rail]
      exact openByCode_sound code sent n s hs
    · exact hs

theorem lselRise_sound {landed : Nat} (hs : s.rail.sound) (h : exec (.lselRise landed) s = .next t) : t.rail.sound := by
  have hrise := raiseLsel_sound landed s hs
  obtain rfl := Host.Outcome.next.inj ((exec_lselRise landed s).symm.trans h)
  split
  · exact hs
  · split
    · exact hrise
    · rw [finish_rail]
      exact hrise

theorem softReset_sound {landed : Nat} (hs : s.rail.sound) (h : exec (.softReset landed) s = .next t) :
    t.rail.sound := by
  obtain rfl := Host.Outcome.next.inj ((exec_softReset landed s).symm.trans h)
  split
  · exact resetTo_sound _ _ _ _ s
  · exact hs

theorem resetEnd_sound {l : Lines} (hs : s.rail.sound) (h : exec (.resetEnd l) s = .next t) : t.rail.sound := by
  obtain rfl := Host.Outcome.next.inj ((exec_resetEnd l s).symm.trans h)
  split
  · exact reset_sound l
  · exact hs

/-- R67: every command keeps the rail record sound. -/
theorem exec_sound (hs : s.rail.sound) (h : exec c s = .next t) : t.rail.sound := by
  cases c with
  | scanCompletion x => exact act_sound (exec_scanCompletion x s) (scanWork_sound x) hs h
  | restCaptureComplete x => exact act_sound (exec_restCaptureComplete x s) (scanWork_sound x) hs h
  | bottomCaptureExpired x => exact act_sound (exec_bottomCaptureExpired x s) (scanWork_sound x) hs h
  | settleCountdownExpiry x => exact act_sound (exec_settleCountdownExpiry x s) (scanWork_sound x) hs h
  | railTick x => exact act_sound (exec_railTick x s) (scanWork_sound x) hs h
  | inputFilterChange i x => exact act_sound (exec_inputFilterChange i x s) (scanWork_sound x) hs h
  | travelLimitStall x => exact act_sound (exec_travelLimitStall x s) (scanWork_sound x) hs h
  | holdLimitExpiry x => exact act_sound (exec_holdLimitExpiry x s) (scanWork_sound x) hs h
  | reversalDwellEnd x => exact act_sound (exec_reversalDwellEnd x s) (scanWork_sound x) hs h
  | keyViewRefresh => exact whenDone_sound (exec_keyViewRefresh s) rail_takeView.keepsSound hs h
  | statusRefresh => exact whenDone_sound (exec_statusRefresh s) rail_takeStatus.keepsSound hs h
  | audioBlock n => exact act_sound (exec_audioBlock n s) (rail_audioWork n).keepsSound hs h
  | scoreReadDone => exact whenDone_sound (exec_scoreReadDone s) rail_endScoreRead.keepsSound hs h
  | burstArrives => exact whenDone_sound (exec_burstArrives s) rail_endBurst.keepsSound hs h
  | journalRecordWriteDone => exact whenDone_sound (exec_journalRecordWriteDone s) rail_endRecord.keepsSound hs h
  | writeMarkWordWritten => exact whenDone_sound (exec_writeMarkWordWritten s) rail_endMark.keepsSound hs h
  | linkStoreRead sent n => exact transact_sound (exec_linkStoreRead sent n s) hs h
  | linkStoreWrite sent => exact transact_sound (exec_linkStoreWrite sent s) hs h
  | linkWordAccessDone => exact whenDone_sound (exec_linkWordAccessDone s) rail_linkAccessDone.keepsSound hs h
  | linkAged => exact act_sound (exec_linkAged s) (fun _ h => h) hs h
  | bankSet sent => exact transact_sound (exec_bankSet sent s) hs h
  | regRead sent => exact transact_sound (exec_regRead sent s) hs h
  | unknownCommand code => exact transact_sound (exec_unknownCommand code s) hs h
  | lselRise landed => exact lselRise_sound hs h
  | areaWrite v => exact transact_sound (exec_areaWrite v s) hs h
  | regWrite sent => exact transact_sound (exec_regWrite sent s) hs h
  | runRising => exact transact_sound (exec_runRising s) hs h
  | runClear => exact transact_sound (exec_runClear s) hs h
  | softReset landed => exact softReset_sound hs h
  | powerOn =>
    obtain rfl := Host.Outcome.next.inj ((exec_powerOn s).symm.trans h)
    exact resetTo_sound _ _ _ _ s
  | resetLine landed =>
    obtain rfl := Host.Outcome.next.inj ((exec_resetLine landed s).symm.trans h)
    exact resetTo_sound _ _ _ _ s
  | resetEnd l => exact resetEnd_sound hs h
  | noticeMask => exact whenDone_sound (exec_noticeMask s) rail_maskRead.keepsSound hs h
  | noticeAcknowledge => exact whenDone_sound (exec_noticeAcknowledge s) rail_acknowledgeRead.keepsSound hs h
  | settingsSelector => exact whenDone_sound (exec_settingsSelector s) rail_selectorRead.keepsSound hs h
  | pageReadDone => exact whenDone_sound (exec_pageReadDone s) rail_pageReadDone.keepsSound hs h
  | adoptionCompletion l c => exact whenDone_sound (exec_adoptionCompletion l c s) (adoptionReadDone_sound l c) hs h
  | pageStatusWritten => exact whenDone_sound (exec_pageStatusWritten s) rail_pageStatusDone.keepsSound hs h
  | orderWordTaken slot order => exact whenDone_sound (exec_orderWordTaken slot order s) (orderRead_sound slot order) hs h
  | unknownOrder slot code q => exact act_sound (exec_unknownOrder slot code q s) (whenRunning_sound fun _ h => h) hs h
  | answerWritten => exact whenDone_sound (exec_answerWritten s) rail_answerDone.keepsSound hs h
  | moveSilent q => exact orderAct_sound (exec_moveSilent q s) (moveOrder_sound .silent q) hs h
  | moveAcoustic q => exact orderAct_sound (exec_moveAcoustic q s) (moveOrder_sound .acoustic q) hs h
  | free q => exact orderAct_sound (exec_free q s) (permissionOrder_sound .free q) hs h
  | hold q => exact orderAct_sound (exec_hold q s) (permissionOrder_sound .held q) hs h
  | pin q => exact orderAct_sound (exec_pin q s) (permissionOrder_sound .pinned q) hs h
  | clearFault q => exact orderAct_sound (exec_clearFault q s) (clearFaultOrder_sound q) hs h
  | start q => exact orderAct_sound (exec_start q s) (rail_startOrder q).keepsSound hs h
  | stop q => exact orderAct_sound (exec_stop q s) (rail_stopOrder q).keepsSound hs h
  | pause q => exact orderAct_sound (exec_pause q s) (rail_pauseOrder q).keepsSound hs h
  | resume q => exact orderAct_sound (exec_resume q s) (rail_resumeOrder q).keepsSound hs h
  | tempo q arg => exact orderAct_sound (exec_tempo q arg s) (fun _ h => h) hs h
  | tracks q arg => exact orderAct_sound (exec_tracks q arg s) (rail_tracksOrder q arg).keepsSound hs h
  | seek q arg => exact orderAct_sound (exec_seek q arg s) (rail_seekOrder q arg).keepsSound hs h
  | loop q arg => exact orderAct_sound (exec_loop q arg s) (rail_loopOrder q arg).keepsSound hs h
  | skip q => exact orderAct_sound (exec_skip q s) (rail_skipOrder q).keepsSound hs h
  | calRest q order => exact orderAct_sound (exec_calRest q order s) (rail_captureOrder .rest q order).keepsSound hs h
  | calBottom q order =>
    exact orderAct_sound (exec_calBottom q order s) (rail_captureOrder .bottom q order).keepsSound hs h
  | calEnd q => exact orderAct_sound (exec_calEnd q s) (rail_endOrder q).keepsSound hs h
  | calAbandon q => exact orderAct_sound (exec_calAbandon q s) (rail_abandonOrder q).keepsSound hs h
  | calTableWritten => exact whenDone_sound (exec_calTableWritten s) rail_calTableDone.keepsSound hs h
  | journalMark q arg => exact orderAct_sound (exec_journalMark q arg s) (fun _ h => h) hs h
  | journalRestart q => exact orderAct_sound (exec_journalRestart q s) (fun _ h => h) hs h
  | readMark => exact whenDone_sound (exec_readMark s) rail_markRead.keepsSound hs h
  | outputFrameStart => exact act_sound (exec_outputFrameStart s) (leavesRail.keepsSound rail_countFrame) hs h

end

/-- Settles O9: the soundness of the rail record is kept by every command and by the end of an access on an empty queue, and gives R67's motor lines. -/
theorem motorRunsOnlyWhenAllowed : Obligations.MotorRunsOnlyWhenAllowed := by
  intro s t hs hstep
  have ht : t.rail.sound := by
    unfold step at hstep
    split at hstep
    · obtain rfl := Host.Outcome.next.inj hstep
      exact readerOnly_rail (readerOnly_idle s) ▸ hs
    · rename_i rest _
      exact exec_sound (s := { s with pending := rest }) hs hstep
  exact ⟨ht, motor_of_sound ht⟩

end Sys2Proof.Machine.RailProofs
end

section
/-!
The statements on RLC's own operations: the end of a reset (R93), the steps of its work at a scan completion (R86), the move orders (R73 to R78), and the permission and fault orders (R87 to R89).
-/

namespace Sys2Proof.Machine.RailProofs

/-! ## The end of a reset (R93) -/

/-- R68: the switch-derived state of raw levels. -/
theorem derived_take (l : Lines) :
    (Inputs.take l).derived = if l.swHome then (if l.swStop then .part else .engaged)
      else if l.swStop then .retracted else .stalled := by
  unfold Inputs.derived Inputs.take
  cases l.swHome <;> cases l.swStop <;> rfl

/-- Settles O6: RESET_END of a part in a reset is `endReset`, and R93's table is `Rail.reset` with the switch-derived state written out. -/
theorem resetEndGivesTheRail : Obligations.ResetEndGivesTheRail := by
  intro s l h
  dsimp only
  rw [exec_resetEnd, if_pos h, endReset, Rail.reset, derived_take]
  rfl

/-! ## Small lemmas on the shared operations -/

theorem railTo_same {r : Rail} {s : State} (h : r.state = s.rail.state) : railTo r s = { s with rail := r } :=
  if_pos h

/-- R70: a change of the rail state hands JWR its record and calls for a status refresh. -/
theorem railTo_changes {r : Rail} {s : State} (h : r.state ≠ s.rail.state) :
    railTo r s = { s with rail := r, ord.statusCall := true,
                          jwr.hand := if s.jwr.taking then s.jwr.hand ++
                            [.record ⟨.rail, BitVec.ofNat 8 r.state.code, BitVec.ofNat 16 r.stop.code, 0, s.scanCount⟩ none]
                            else s.jwr.hand } := by
  rw [railTo, if_neg h, handRecord]
  split
  · rfl
  · rfl

/-- The rail record a state had before it takes another plays no part but for its state. -/
theorem railTo_with {q r : Rail} {s : State} (h : q.state = s.rail.state) : railTo r { s with rail := q } = railTo r s := by
  unfold railTo
  dsimp only
  rw [h]

theorem railTo_summary (r : Rail) (s : State) : (railTo r s).ord.summary = s.ord.summary := by
  unfold railTo handRecord
  split
  · rfl
  · split <;> rfl

theorem arrivedState_eq (g : Target) : g.arrivedState = if g = .silent then .engaged else .retracted := by
  cases g <;> rfl

theorem running_eq (d : Direction) : d.running = if d = .inward then .engaging else .releasing := by cases d <;> rfl

/-! ## The steps of RLC's work (R86) -/

/-- R72: the hammer-quiet condition. -/
theorem quietNow_iff (keys : Vector KeyRec 88) (n : Nat) (c : Capture) :
    quietNow keys n c = true ↔
      (∀ k : Fin 88, (keys[k]).state ≠ .descent ∧ (keys[k]).state ≠ .repeatDescent) ∧ n = 0 ∧ c.running = none := by
  have htiming (st : KeyState) : st.timing = false ↔ st ≠ .descent ∧ st ≠ .repeatDescent := by
    cases st <;> simp [KeyState.timing]
  have hkeys : (∀ x ∈ keys.toList, x.state.timing = false) ↔ ∀ k : Fin 88, (keys[k]).state.timing = false := by
    constructor
    · intro h k
      exact h _ (by simp)
    · intro h x hx
      obtain ⟨i, hi, rfl⟩ := Vector.mem_iff_getElem.mp (Vector.mem_toList_iff.mp hx)
      exact h ⟨i, hi⟩
  simp only [quietNow, Bool.and_eq_true, List.all_eq_true, Bool.not_eq_true', beq_iff_eq, Option.isNone_iff_eq_none,
    hkeys, and_assoc]
  simp only [htiming]

theorem sample_agrees {len : Nat} {level : Bool} {f : Filtered} (h : level = f.level) :
    f.sample len level = ⟨f.level, 0⟩ := if_pos h

theorem sample_counts {len : Nat} {level : Bool} {f : Filtered} (h : level ≠ f.level) (hl : f.count + 1 < len) :
    f.sample len level = ⟨f.level, f.count + 1⟩ := by
  rw [Filtered.sample, if_neg h, if_neg (Nat.not_le.mpr hl)]

theorem sample_takes {len : Nat} {level : Bool} {f : Filtered} (h : level ≠ f.level) (hl : len ≤ f.count + 1) :
    f.sample len level = ⟨level, 0⟩ := by
  rw [Filtered.sample, if_neg h, if_pos hl]

/-- The source plays no part in what `railTo` does besides. -/
theorem railTo_source {q r : Rail} {src : Source} (h : q = { r with source := src }) (s : State) :
    railTo q s = { railTo r s with rail.source := src } := by
  subst h
  unfold railTo handRecord
  dsimp only
  split
  · rfl
  · split <;> rfl

theorem startMove_source (target : Target) (src : Source) (s : State) :
    startMove target src s = { startMove target .host s with rail.source := src } := by
  unfold startMove
  refine railTo_source ?_ s
  rfl

/-- R73: a request of the lever does what the host's does, with its own source, and nothing where it is not accepted. -/
theorem request_lever (target : Target) (s : State) :
    (request target .lever s).2 = (request target .host s).2
      ∧ ((request target .host s).2 = .accepted →
          (request target .lever s).1 = { (request target .host s).1 with rail.source := .lever })
      ∧ ((request target .host s).2 ≠ .accepted → (request target .lever s).1 = s) := by
  cases hs : s.rail.state with
  | stalled =>
    rw [request_stalled hs, request_stalled hs]
    exact ⟨rfl, nofun, fun _ => rfl⟩
  | retracted | engaged | part =>
    have hrest : s.rail.state.resting = true := by rw [hs]; rfl
    cases hend : standsAt s.rail.state target with
    | true =>
      rw [request_stands hend, request_stands hend]
      exact ⟨rfl, nofun, fun _ => rfl⟩
    | false =>
      by_cases hp : s.rail.perm = .free
      · rw [request_starts hrest hend hp, request_starts hrest hend hp]
        exact ⟨rfl, fun _ => startMove_source target .lever s, fun h => absurd rfl h⟩
      · rw [request_refused hrest hend hp, request_refused hrest hend hp]
        exact ⟨rfl, nofun, fun _ => rfl⟩
  | engaging | releasing =>
    have hdrive : s.rail.state.driving = true := by rw [hs]; rfl
    by_cases ht : s.rail.target = target
    · rw [request_absorbed hdrive ht, request_absorbed hdrive ht]
      exact ⟨rfl, fun _ => rfl, fun h => absurd rfl h⟩
    · rw [request_reverses hdrive ht, request_reverses hdrive ht]
      exact ⟨rfl, fun _ => railTo_source (by rfl) s, fun h => absurd rfl h⟩
  | paused =>
    by_cases ht : s.rail.target = target
    · rw [request_absorbed_paused hs ht, request_absorbed_paused hs ht]
      exact ⟨rfl, fun _ => rfl, fun h => absurd rfl h⟩
    · rw [request_turns hs ht, request_turns hs ht]
      exact ⟨rfl, fun _ => rfl, fun h => absurd rfl h⟩
  | reversing =>
    rw [request_dwells hs, request_dwells hs]
    exact ⟨rfl, fun _ => rfl, fun h => absurd rfl h⟩

/-! ## The move orders -/

theorem exec_move (target : Target) (seq : Half) {s : State} (h : s.inReset = false) (hr : s.running = true) :
    exec (match target with
      | .silent => .moveSilent seq
      | .acoustic => .moveAcoustic seq) s = .next (finish (moveOrder target seq s)) := by
  cases target with
  | silent => rw [exec_moveSilent, orderAct_running h hr]
  | acoustic => rw [exec_moveAcoustic, orderAct_running h hr]

/-- What a move order leaves of the calm part, and its answer, follow from the host's request. -/
theorem moveOrder_answers {target : Target} {seq : Half} {s t : State} {r : Result}
    (h : request target .host s = (t, r)) :
    calm (finish (moveOrder target seq s)) = calm t ∧ answered .rail seq r (finish (moveOrder target seq s)) := by
  unfold moveOrder
  rw [h]
  exact ⟨by rw [finish_calm, answer_calm], answered_finish (answered_answer _ _ _ _)⟩

/-- Settles O28: each clause is one case of the host's request. -/
theorem moveOrdersAct : Obligations.MoveOrdersAct := by
  refine ⟨fun target seq s hreset hrun hrest hp hend => ?_, fun target seq s hreset hrun => ?_⟩
  · obtain ⟨hcalm, hans⟩ := moveOrder_answers (seq := seq) (request_starts hrest hend hp)
    refine ⟨_, exec_move target seq hreset hrun, hans, ?_⟩
    rw [hcalm, startMove, railTo_calm]
  · refine ⟨_, exec_move target seq hreset hrun, rfl, fun h => ?_, fun h => ?_, fun h hend hp => ?_, fun h ht => ?_,
      fun h ht => ?_, fun h ht => ?_, fun h ht => ?_, fun h => ?_⟩
    · exact moveOrder_answers (request_stalled h)
    · exact moveOrder_answers (request_stands h)
    · exact moveOrder_answers (request_refused h hend hp)
    · exact moveOrder_answers (request_absorbed h ht)
    · obtain ⟨hcalm, hans⟩ := moveOrder_answers (seq := seq) (request_reverses h ht)
      exact ⟨by rw [hcalm, railTo_calm], hans⟩
    · exact moveOrder_answers (request_absorbed_paused h ht)
    · exact moveOrder_answers (request_turns h ht)
    · exact moveOrder_answers (request_dwells h)

/-! ## Permission and fault orders -/

theorem exec_permission (p : Permission) (seq : Half) {s : State} (h : s.inReset = false) (hr : s.running = true) :
    exec (match p with
      | .free => .free seq
      | .held => .hold seq
      | .pinned => .pin seq) s = .next (finish (permissionOrder p seq s)) := by
  cases p with
  | free => rw [exec_free, orderAct_running h hr]
  | held => rw [exec_hold, orderAct_running h hr]
  | pinned => rw [exec_pin, orderAct_running h hr]

section
variable {p : Permission} {seq : Half} {s : State}

/-- R87. -/
theorem permissionOrder_refused (hp : p ≠ .pinned) (hs : s.rail.perm = .pinned) (hl : s.rail.inputs.svc.level = true) :
    permissionOrder p seq s = answer .rail seq .refusedState s := by
  simp [permissionOrder, pinnedByService, hp, hs, hl]

theorem permissionOrder_taken (h : p = .pinned ∨ s.rail.perm ≠ .pinned ∨ s.rail.inputs.svc.level = false) :
    permissionOrder p seq s = answer .rail seq .completed (setPermission p s) := by
  obtain h | h | h := h <;> simp [permissionOrder, pinnedByService, h]

/-- R88: no move in flight loses the permission. -/
theorem setPermission_keeps (h : s.rail.state.moving = false ∨ s.rail.perm ≠ .free ∨ p = .free) :
    setPermission p s = { s with rail.perm := p } := by
  obtain h | h | h := h <;> simp [setPermission, h]

/-- R88: a move in flight that loses the permission ends short. -/
theorem setPermission_ends (hm : s.rail.state.moving = true) (hf : s.rail.perm = .free) (hp : p ≠ .free) :
    setPermission p s = endShort .held { s with rail.perm := p } := by
  simp [setPermission, hm, hf, hp]

theorem endShort_perm (c : StopCause) (s : State) : (endShort c s).rail.perm = s.rail.perm := by
  by_cases h : s.rail.inputs.derived = .stalled
  · rw [endShort_stalls h, stall_rail]
  · rw [endShort_derives h, rail_noticeIf, railTo_rail]

theorem setPermission_perm (p : Permission) (s : State) : (setPermission p s).rail.perm = p := by
  unfold setPermission
  dsimp only
  split
  · exact endShort_perm _ _
  · rfl

/-- R76: the calm part and the notice of a move that ends short and does not stall. -/
theorem endShort_partial {c : StopCause} (hc : (c != .stopped) = true) (h : s.rail.inputs.derived ≠ .stalled) :
    calm (endShort c s) = { calm s with rail :=
        { s.rail with state := s.rail.inputs.derived, dir := none, limits := none, pause := 0, dwell := 0, stop := c } }
      ∧ noticed .railPartial (endShort c s) = true := by
  rw [endShort_derives h, hc]
  exact ⟨(noticeIf_calm _ _ _).trans (railTo_calm _ _), noticed_notice _ _⟩

/-- R76, R84: the calm part and the notice of a move that ends short with both switches closed. -/
theorem endShort_fault {c : StopCause} (h : s.rail.inputs.derived = .stalled) :
    calm (endShort c s) = { calm s with rail :=
        { s.rail with state := .stalled, dir := none, limits := none, fault := .switch, stop := .switch, pause := 0,
                      dwell := 0 } }
      ∧ noticed .railFault (endShort c s) = true := by
  rw [endShort_stalls h]
  exact ⟨(notice_calm _ _).trans (railTo_calm _ _), noticed_notice _ _⟩

end

theorem noticed_answered {n : Notice} {slot : Slot} {seq : Half} {r : Result} {s : State} (h : noticed n s = true) :
    noticed n (finish (answer slot seq r s)) = true :=
  noticed_of_quiet ((quiet_answer _ _ _ _).trans (quiet_finish _)) h

/-- The answer of an order whose block leaves `s`. -/
theorem answered_answer_finish (slot : Slot) (seq : Half) (r : Result) (s : State) :
    calm (finish (answer slot seq r s)) = calm s ∧ answered slot seq r (finish (answer slot seq r s)) :=
  ⟨by rw [finish_calm, answer_calm], answered_finish (answered_answer _ _ _ _)⟩

/-- R89. -/
theorem clearFaultOrder_clears {seq : Half} {s : State} (hs : s.rail.state = .stalled)
    (hd : s.rail.inputs.derived ≠ .stalled) :
    clearFaultOrder seq s = answer .rail seq .completed
      (railTo { s.rail with state := s.rail.inputs.derived, fault := .none, stop := .none, travel := 0 } s) := by
  simp [clearFaultOrder, hs, hd]

/-- Settles O29: a permission order is refused or sets the permission, and then `endShort` ends a move that loses it; CLEAR_FAULT has its three cases. -/
theorem permissionAndFaultOrders : Obligations.PermissionAndFaultOrders := by
  refine ⟨fun p seq s hreset hrun => ⟨_, exec_permission p seq hreset hrun, fun hp hs hl => ?_, fun h => ?_⟩,
    fun seq s hreset hrun => ⟨_, by rw [exec_clearFault, orderAct_running hreset hrun], fun h => ?_, fun h hd => ?_,
      fun h hd => ?_⟩⟩
  · rw [permissionOrder_refused hp hs hl]
    exact answered_answer_finish _ _ _ s
  · rw [permissionOrder_taken h]
    obtain ⟨hcalm, hans⟩ := answered_answer_finish .rail seq .completed (setPermission p s)
    refine ⟨?_, hans, fun hk => ?_, fun hm hf hp hd => ?_, fun hm hf hp hd => ?_⟩
    · rw [rail_of_calm hcalm, setPermission_perm]
    · rw [hcalm, setPermission_keeps hk]
      rfl
    · rw [hcalm, setPermission_ends hm hf hp]
      obtain ⟨hc, hn⟩ := endShort_partial (s := { s with rail.perm := p }) (c := .held) rfl hd
      exact ⟨hc, noticed_answered hn⟩
    · rw [hcalm, setPermission_ends hm hf hp]
      obtain ⟨hc, hn⟩ := endShort_fault (s := { s with rail.perm := p }) (c := .held) hd
      exact ⟨hc, noticed_answered hn⟩
  · rw [clearFaultOrder, if_neg h]
    exact answered_answer_finish _ _ _ s
  · rw [clearFaultOrder, if_pos h, if_pos hd]
    exact answered_answer_finish _ _ _ s
  · rw [clearFaultOrder_clears h hd]
    obtain ⟨hcalm, hans⟩ := answered_answer_finish .rail seq .completed
      (railTo { s.rail with state := s.rail.inputs.derived, fault := .none, stop := .none, travel := 0 } s)
    exact ⟨by rw [hcalm, railTo_calm], hans⟩

end Sys2Proof.Machine.RailProofs
end

section
/-!
SUPPORT. RLC's work at a scan completion, step by step (R86): an equation for each case of each step.
-/

namespace Sys2Proof.Machine.RailProofs

section
variable {s : State}

/-! ## The settle countdown and the quiet flag (R71, R72, R79, R80) -/

/-- The evaluation of a scan, on the countdown that the scan leaves. -/
theorem quietStep_eq (keys : Vector KeyRec 88) (struck : Bool) (s : State) :
    quietStep keys struck s =
      setQuiet (quietNow keys (if struck then s.rail.settle else s.rail.settle - 1) s.cap)
        { s with rail.settle := if struck then s.rail.settle else s.rail.settle - 1 } := rfl

/-! ## Sampling (R68, R73) -/

theorem sampleStep_lever {l : Lines} (h : (s.rail.inputs.sample l).lever.level ≠ s.rail.inputs.lever.level)
    (he : s.settings.leverEnable = true) :
    sampleStep l s = (request (s.rail.inputs.sample l).leverPosition .lever
      { s with rail.inputs := s.rail.inputs.sample l }).1 := by
  simp [sampleStep, h, he]

theorem sampleStep_plain {l : Lines}
    (h : (s.rail.inputs.sample l).lever.level = s.rail.inputs.lever.level ∨ s.settings.leverEnable = false) :
    sampleStep l s = { s with rail.inputs := s.rail.inputs.sample l } := by
  obtain h | h := h <;> simp [sampleStep, h]

/-! ## The tests (R82, R84, R85) -/

theorem arrivalStep_arrives (hm : s.rail.state.moving = true) (ht : s.rail.inputs.atTarget s.rail.target = true) :
    arrivalStep s = notice .railArrived (railTo
      { s.rail with state := s.rail.target.arrivedState, dir := none, limits := none, pause := 0, dwell := 0,
                    stop := .arrived } s) := by
  simp [arrivalStep, hm, ht]

theorem arrivalStep_none (h : s.rail.state.moving = false ∨ s.rail.inputs.atTarget s.rail.target = false) :
    arrivalStep s = s := by
  obtain h | h := h <;> simp [arrivalStep, h]

theorem switchStep_stalls (hs : s.rail.state ≠ .stalled) (hd : s.rail.inputs.derived = .stalled) :
    switchStep s = stall .switch .switch s := by
  simp [switchStep, hs, hd]

theorem switchStep_none (h : s.rail.state = .stalled ∨ s.rail.inputs.derived ≠ .stalled) : switchStep s = s := by
  obtain h | h := h <;> simp [switchStep, h]

theorem driftStep_drifts (hr : s.rail.state.resting = true) (hd : s.rail.inputs.derived ≠ s.rail.state)
    (hs : s.rail.inputs.derived ≠ .stalled) :
    driftStep s = noticeIf (s.rail.inputs.derived == .part) .railPartial
      (railTo { s.rail with state := s.rail.inputs.derived, stop := .drift } s) := by
  simp [driftStep, hr, hd, hs]

theorem driftStep_none
    (h : s.rail.state.resting = false ∨ s.rail.inputs.derived = s.rail.state ∨ s.rail.inputs.derived = .stalled) :
    driftStep s = s := by
  obtain h | h | h := h <;> simp [driftStep, h]

/-! ## The counts (R77, R79, R81, R83) -/

theorem countStep_travels (h : s.rail.state.driving = true) : countStep s = countTravel s := by
  obtain hs | hs := driving_cases h <;> simp [countStep, hs]

theorem countStep_pauses (h : s.rail.state = .paused) : countStep s = countPause s := by
  simp [countStep, h]

theorem countStep_dwells (h : s.rail.state = .reversing) : countStep s = countDwell s := by
  simp [countStep, h]

theorem countStep_none (h : s.rail.state.moving = false) : countStep s = s := by
  cases hs : s.rail.state with
  | retracted | engaged | part | stalled => simp [countStep, hs]
  | engaging | releasing | paused | reversing => simp [hs, RailState.moving] at h

theorem countTravel_stalls (h : (limitsOf s).travel ≤ s.rail.travel + 1) :
    countTravel s = stall .travel .travel { s with rail.travel := s.rail.travel + 1 } := if_pos h

theorem countTravel_counts (h : s.rail.travel + 1 < (limitsOf s).travel) :
    countTravel s = { s with rail.travel := s.rail.travel + 1 } := if_neg (Nat.not_le.mpr h)

theorem countPause_ends (h : (limitsOf s).hold ≤ s.rail.pause + 1) : countPause s = endShort .pauseLimit s := if_pos h

theorem countPause_counts (h : s.rail.pause + 1 < (limitsOf s).hold) :
    countPause s = { s with rail.pause := s.rail.pause + 1 } := if_neg (Nat.not_le.mpr h)

theorem countDwell_ends (h : (limitsOf s).dwell ≤ s.rail.dwell + 1) : countDwell s = endDwell s := if_pos h

theorem countDwell_counts (h : s.rail.dwell + 1 < (limitsOf s).dwell) :
    countDwell s = { s with rail.dwell := s.rail.dwell + 1 } := if_neg (Nat.not_le.mpr h)

end

/-- R71, R72, R79, R80, in the cases of the rail state: the quiet flag `q` and what the evaluation makes of it. -/
theorem quietStep_cases (keys : Vector KeyRec 88) (struck : Bool) (s : State) :
    let n := if struck then s.rail.settle else s.rail.settle - 1
    let q := quietNow keys n s.cap
    let r := { s.rail with settle := n, quiet := q }
    (s.rail.state.driving = true → q = true → quietStep keys struck s = { s with rail := r })
    ∧ (s.rail.state.driving = true → q = false →
        quietStep keys struck s = railTo { r with state := .paused, pause := 0 } s)
    ∧ (∀ d, s.rail.state = .paused → s.rail.dir = some d → q = true →
        quietStep keys struck s = railTo
          { r with state := if d = .inward then .engaging else .releasing, pause := 0 } s)
    ∧ (s.rail.state = .paused → q = false → quietStep keys struck s = { s with rail := r })
    ∧ (s.rail.state.driving = false → s.rail.state ≠ .paused → quietStep keys struck s = { s with rail := r }) := by
  dsimp only
  rw [quietStep_eq]
  generalize (if struck then s.rail.settle else s.rail.settle - 1) = n
  generalize quietNow keys n s.cap = q
  refine ⟨fun hd hq => ?_, fun hd hq => ?_, fun d hs hr hq => ?_, fun hs hq => ?_, fun hd hs => ?_⟩
  · rw [hq]
    exact setQuiet_drives (s := { s with rail.settle := n }) hd
  · rw [hq]
    exact (setQuiet_pauses (s := { s with rail.settle := n }) hd).trans (railTo_with rfl)
  · rw [hq, ← running_eq]
    exact (setQuiet_resumes (s := { s with rail.settle := n }) hs hr).trans (railTo_with rfl)
  · rw [hq]
    exact setQuiet_waits (s := { s with rail.settle := n }) hs
  · exact setQuiet_rests (s := { s with rail.settle := n }) hd hs

/-- Settles O27: one equation of each step for each clause. -/
theorem railTickCounts : Obligations.RailTickCounts := by
  intro s
  refine ⟨fun l keys struck => ?_, rfl, fun keys struck => ⟨_, quietNow_iff _ _ _, quietStep_cases keys struck s⟩,
    fun r => ⟨railTo_same, railTo_changes⟩, fun len level f => ⟨sample_agrees, sample_counts, sample_takes⟩,
    fun l => ⟨sampleStep_lever, sampleStep_plain⟩, fun target => request_lever target s,
    fun hm ht => ?_, arrivalStep_none, fun hs hd => ?_, switchStep_none, fun hd hl => ?_, fun hd hl => ?_,
    fun hs hl hd => ?_, fun hs hl hd => ?_, fun hs hl => ?_, fun hs hl => ?_, fun hs hl => ?_, countStep_none,
    fun hr hd hs => ?_, driftStep_none⟩
  · simp [railScan, isTick, tickSteps]
  · rw [arrivalStep_arrives hm ht, arrivedState_eq]
    exact ⟨rfl, noticed_notice _ _⟩
  · rw [switchStep_stalls hs hd]
    exact ⟨rfl, noticed_notice _ _⟩
  · rw [countStep_travels hd, countTravel_stalls hl]
    exact ⟨stall_rail _ _ _, noticed_notice _ _⟩
  · rw [countStep_travels hd, countTravel_counts hl]
  · rw [countStep_pauses hs, countPause_ends hl]
    exact ⟨endShort_derives hd, (endShort_partial rfl hd).2⟩
  · rw [countStep_pauses hs, countPause_ends hl, endShort_stalls hd]
    rfl
  · rw [countStep_pauses hs, countPause_counts hl]
  · rw [countStep_dwells hs, countDwell_ends hl]
    rfl
  · rw [countStep_dwells hs, countDwell_counts hl]
  · rw [driftStep_drifts hr hd hs]
    refine ⟨by rw [rail_noticeIf, railTo_rail], fun hp => ?_, fun hp => ?_⟩
    · rw [hp]
      exact noticed_notice _ _
    · simp [hp, noticeIf, railTo_summary]

end Sys2Proof.Machine.RailProofs
end
